-- ==== Sys2Proof/Word.lean ====
section
/-! DEFINITION. The wire byte and the other fixed widths of 00_scope.md R11, R13. -/

namespace Sys2Proof

/-- u8: every wire field is 8 bits (00_scope.md R11). Read as s8 (two's complement) by `toInt`. -/
abbrev Byte := BitVec 8

/-- u16: the preamble length, the one multi-byte field (20_memory.md R75). -/
abbrev HalfWord := BitVec 16

/-- The `mod 256` residue of an integer, as a byte (00_scope.md R13). -/
abbrev Byte.ofResidue (n : Int) : Byte := BitVec.ofInt 8 n

end Sys2Proof
end

