-- ==== Sys2Proof/Syntax.lean ====
section
/-! DEFINITION. The instructions: one constructor per row of spec/opcode_table.json. -/

namespace Sys2Proof

/-- One uplink frame as an instruction (30_encoding.md R100, R101): the function identifier selects the constructor and
the optional data are its operands. `data` is kept by the commands that ignore it, so that no bit of a frame is dropped;
the identifier field and bytes after the declared length are no part of the instruction (30_encoding.md R104, 40_codec.md
R145; log 17). `unknown` and `privateCmd` carry the function identifier they were selected by. -/
inductive Instr
  | ping (data : List Byte)
  | retransmit (data : List Byte)
  | retransmitCustom (data : List Byte)
  | transmitSystemInfo (data : List Byte)
  | getLastPacketInfo (data : List Byte)
  | unknown (f : Byte) (data : List Byte)
  | privateCmd (f : Byte) (data : List Byte)
  deriving DecidableEq, Repr

/-- The optional data of an instruction (30_encoding.md R101). -/
def Instr.data : Instr → List Byte
  | .ping d => d
  | .retransmit d => d
  | .retransmitCustom d => d
  | .transmitSystemInfo d => d
  | .getLastPacketInfo d => d
  | .unknown _ d => d
  | .privateCmd _ d => d

end Sys2Proof
end

