-- ==== Sys2Proof/Config.lean ====
section
/-! DEFINITION. What an implementation fixes: the normative constants and the OPEN parameters of 00_scope.md R10, and the
free values (93_implementation_defined.md section 3) as opaque constants. -/

namespace Sys2Proof

/-- The two modem types (00_scope.md R19): LoRa is spread-spectrum, FSK is narrowband. -/
inductive ModemType
  | lora
  | fsk
  deriving DecidableEq, Repr, Inhabited

/-- A value whose type no source gives (10_state.md R39: carrierFrequency, syncWord, currentLimit are of OPEN types; 42_link_manager.md
R235: the fixed driver constants). The block copies and compares such values and nothing else, so a natural number stands for
the value's name. DESIGN CHOICE, log 4. -/
abbrev OpenValue := Nat

/-! ## Real numbers (00_scope.md R11; 10_state.md R39; 92_eei_decisions.md D43) -/

/-- The function `f` gives the products of the real number `x` with every rational, rounded down. It determines `x`, and it is all that a
quantizer or a rounding can see of `x` by comparing it with rationals. -/
def IsCutOf (f : Rat → Int) (x : ℝ) : Prop := ∀ c : Rat, f c = ⌊x * (c : ℝ)⌋

/-- A real number given by its products rounded down: a rational's own, or any real's. -/
inductive RealCut
  | ofRational (q : Rat)
  | ofReal (f : Rat → Int) (h : ∃ x : ℝ, IsCutOf f x)
  deriving Inhabited

/-- The k-th unspecified real number. -/
opaque Config.freeReal : Nat → RealCut

/-- A real number as plain data: a rational written out, or the name of an unspecified real, so that a statement about every value is one
about every real. DESIGN CHOICE, log 5. -/
inductive RealValue
  | rational (q : Rat)
  | named (k : Nat)
  deriving DecidableEq, Repr, Inhabited

/-- ⌊x · c⌋ for the real number x that `v` stands for. -/
def RealValue.floorMul (v : RealValue) (c : Rat) : Int :=
  match v with
  | .rational q => (q * c).floor
  | .named k =>
    match Config.freeReal k with
    | .ofRational q => (q * c).floor
    | .ofReal f _ => f c

/-- A modem configuration record (10_state.md R39). `bandwidth` is a real number of kHz; `outputPower` is s8, read by `toInt`. -/
structure ModemConfig where
  modemType : ModemType
  bandwidth : RealValue
  spreadingFactor : Byte
  codingRate : Byte
  preambleLength : HalfWord
  crcEnabled : Bool
  outputPower : Byte
  carrierFrequency : OpenValue
  syncWord : OpenValue
  currentLimit : OpenValue
  deriving DecidableEq, Repr, Inhabited

/-- The failures of `radio.begin` (10_state.md R60), which are the kinds of LinkFault (60_exceptions.md R320). -/
inductive LinkErr
  | chipNotFound
  | commandFailed
  | commandInvalid
  deriving DecidableEq, Repr, Inhabited

/-- The result of `radio.begin`: LinkStatus of 10_state.md R60. -/
inductive LinkStatus
  | ok
  | err (k : LinkErr)
  deriving DecidableEq, Repr, Inhabited

/-- The collaborators of 10_state.md R60, under the names TRACE uses. -/
inductive Collaborator
  | storage
  | sensors
  | radio
  | watchdog
  deriving DecidableEq, Repr, Inhabited

/-- A binding of LORA_CFG_VALID (42_link_manager.md R232, OPEN): `rejecting l` accepts everything outside the list (`rejecting []`
is D40's reference binding), `free k` is the k-th of a family of unspecified predicates. Log 3. -/
inductive ConfigCheck
  | rejecting (l : List ModemConfig)
  | free (k : Nat)
  deriving DecidableEq, Repr

/-- A binding of PRIVATE_HANDLER (41_commands.md R214, OPEN): `table` answers for the frames it lists, as (function identifier,
data, response identifier, payload), and None for every other one, so that `table []` is the default handler; `free k` is the
k-th of a family of unspecified pure handlers. Log 3. -/
inductive HandlerBinding
  | table (rows : List (Byte × List Byte × Byte × List Byte))
  | free (k : Nat)
  deriving DecidableEq, Repr

/-- A binding of Q_V (41_commands.md R206, OPEN): D40's formula or an unspecified quantizer of the real reading. Log 3. -/
inductive QuantizerBinding
  | reference
  | free (k : Nat)
  deriving DecidableEq, Repr

/-- A binding of ROUND (00_scope.md R10): the default, half-to-even, or an unspecified rounding that maps integers to themselves
(93_implementation_defined.md section 2). Log 3. -/
inductive RoundBinding
  | halfAwayFromZero
  | halfToEven
  | free (k : Nat)
  deriving DecidableEq, Repr

/-! ## Normative constants (00_scope.md R10) -/

/-- ID_MAX: largest identifier length. -/
def Config.idMax : Nat := 32
/-- OPT_MAX: largest optional-data length. -/
def Config.optMax : Nat := 128
/-- FRAME_MAX = RX_CAP = TX_CAP: the radio buffer size. -/
def Config.frameMax : Nat := 162
/-- CUSTOM_MIN: least optional-data length of RETRANSMIT_CUSTOM. -/
def Config.customMin : Nat := 8
/-- CUSTOM_MAX: greatest optional-data length of RETRANSMIT_CUSTOM. -/
def Config.customMax : Nat := 39
/-- TIMEOUT_NUM of the timeout factor 3/2. -/
def Config.timeoutNum : Nat := 3
/-- TIMEOUT_DEN of the timeout factor 3/2. -/
def Config.timeoutDen : Nat := 2

/-! ## OPEN constants with no reference binding (log 2): no body, so nothing can be proved of their values -/

/-- The fields of LORA_DEFAULT other than its modem type (42_link_manager.md R230). -/
opaque Config.openLoraTable : ModemConfig
/-- The fields of FSK_DEFAULT other than its modem type (42_link_manager.md R230). -/
opaque Config.openFskTable : ModemConfig
/-- FSK_SYNC_WORD (42_link_manager.md R235). -/
opaque Config.openFskSyncWord : OpenValue
/-- FSK_CRC_LEN (42_link_manager.md R235). -/
opaque Config.openFskCrcLen : OpenValue
/-- TCXO_VOLTAGE (42_link_manager.md R235). -/
opaque Config.openTcxoVoltage : OpenValue
/-- FSK_CFG_VALID (42_link_manager.md R232): no step of the block applies it. -/
opaque Config.fskCfgValid : ModemConfig → Bool
/-- TOA(cfg, len) in microseconds: reached only as the result of getTimeOnAir, which is a draw (43_transmit_fsm.md R268), so no step applies it. -/
opaque Config.timeOnAir : ModemConfig → Nat → Nat
/-- WDT_TIMEOUT: ENV's duty, read by no step (60_exceptions.md R342). -/
opaque Config.wdtTimeout : Nat
/-- RESTART_WINDOW: ENV's duty, read by no step (60_exceptions.md R342). -/
opaque Config.restartWindow : Nat
/-- TMR_PERIOD: read by no step (60_exceptions.md R358). -/
opaque Config.tmrPeriod : Nat
/-- MAX_BLOCK_COUNT: read by no step (00_scope.md R10). -/
opaque Config.maxBlockCount : Nat

/-! ## Function-valued OPEN parameters (log 3) -/

/-- The k-th unspecified configuration predicate. -/
opaque Config.freeConfigCheck : Nat → ModemConfig → Bool
/-- The k-th unspecified handler of (function identifier, data). -/
opaque Config.freeHandler : Nat → Byte → List Byte → Option (Byte × List Byte)
/-- The k-th unspecified bus-voltage quantizer, of the multiplier and of the reading's products rounded down. -/
opaque Config.freeQuantizer : Nat → Rat → (Rat → Int) → Byte
/-- The byte of the reference quantizer at the multiplier 0, where the quotient of 41_commands.md R206 has no value. DESIGN CHOICE, log 28. -/
opaque Config.freeQuotient : (Rat → Int) → Byte
/-- The k-th unspecified rounding of a non-integer, given by its products rounded down. -/
opaque Config.freeRound : Nat → (Rat → Int) → Int
/-- SYSINFO_FIELDS[k].quant for k ≥ 1 (41_commands.md R205), of the reading's products rounded down. -/
opaque Config.fieldQuantizer : Nat → (Rat → Int) → Byte
/-- The collaborator that answers SYSINFO_FIELDS[k].read() for k ≥ 1 (41_commands.md R205). -/
opaque Config.fieldSource : Nat → Collaborator

/-! ## Free values: the draw numbered `k` when ENV has no answer ready (log 7). A free reading is `RealValue.named k`. -/

/-- An answer of `storage.getCallsign`: a length, counted from 1, bytes of which that many are used, and the bytes after them. -/
opaque Config.freeCallsign : Nat → Fin 32 × (Fin 32 → Byte) × List Byte
/-- A result of `radio.begin`. -/
opaque Config.freeLinkStatus : Nat → LinkStatus
/-- A result of `radio.startTransmit`. -/
opaque Config.freeStartStatus : Nat → Int
/-- A result of `radio.getTimeOnAir`. -/
opaque Config.freeTimeOnAir : Nat → Nat
/-- A result of `storage.isTransmissionEnabled`. -/
opaque Config.freeEnable : Nat → Bool
/-- A level of TX_DONE. -/
opaque Config.freeTxDone : Nat → Bool
/-- By how much NOW has advanced at a read. -/
opaque Config.freeTimeStep : Nat → Nat
/-- ANY_u8 (41_commands.md R207). -/
opaque Config.freeByte : Nat → Byte

/-! ## The parameters as one record -/

/-- The parameters of 00_scope.md R10 that an implementation binds. The spec's model "takes the parameters below as arguments": here
they are one plain-data field of State that no step writes, so a statement about every state holds of every binding. Log 1. -/
structure Params where
  cmdPing : Byte
  cmdRetransmit : Byte
  cmdRetransmitCustom : Byte
  cmdTransmitSystemInfo : Byte
  cmdGetLastPacketInfo : Byte
  privateOffset : Byte
  respPong : Byte
  respRepeatedMessage : Byte
  respRepeatedMessageCustom : Byte
  respSystemInfo : Byte
  respPacketInfo : Byte
  loraDefault : ModemConfig
  fskDefault : ModemConfig
  /-- BOOT_MODEM is one of the two tables (93_implementation_defined.md section 2), named by its modem type. -/
  bootModem : ModemType
  fskSyncWord : OpenValue
  fskCrcLen : OpenValue
  tcxoVoltage : OpenValue
  loraCfgValid : ConfigCheck
  hbPeriod : Nat
  drvOk : Int
  round : RoundBinding
  nSysInfo : Nat
  /-- VOLTAGE_MULTIPLIER. No source gives its type or range: any rational, 0 and the negative ones included. DESIGN CHOICE, log 28. -/
  voltageMultiplier : Rat
  quantizer : QuantizerBinding
  handler : HandlerBinding
  deriving DecidableEq, Repr

/-- The reference binding of 92_eei_decisions.md D40, with an opaque constant wherever D40 names no value. -/
def Params.reference : Params where
  cmdPing := 0x00
  cmdRetransmit := 0x01
  cmdRetransmitCustom := 0x02
  cmdTransmitSystemInfo := 0x03
  cmdGetLastPacketInfo := 0x04
  privateOffset := 0x80
  respPong := 0x10
  respRepeatedMessage := 0x11
  respRepeatedMessageCustom := 0x12
  respSystemInfo := 0x13
  respPacketInfo := 0x14
  loraDefault := { Config.openLoraTable with modemType := .lora }
  fskDefault := { Config.openFskTable with modemType := .fsk }
  bootModem := .lora
  fskSyncWord := Config.openFskSyncWord
  fskCrcLen := Config.openFskCrcLen
  tcxoVoltage := Config.openTcxoVoltage
  loraCfgValid := .rejecting []
  hbPeriod := 1000000
  drvOk := 0
  round := .halfAwayFromZero
  nSysInfo := 1
  voltageMultiplier := 20
  quantizer := .reference
  handler := .table []

/-- D40's identifier ABCDE. -/
def Config.referenceId : List Byte := [0x41, 0x42, 0x43, 0x44, 0x45]

/-- The five public command identifiers, in the table's order. -/
def Params.commandIds (p : Params) : List Byte :=
  [p.cmdPing, p.cmdRetransmit, p.cmdRetransmitCustom, p.cmdTransmitSystemInfo, p.cmdGetLastPacketInfo]

/-- Payloads a bound handler answers with hold at most 128 bytes (41_commands.md R214). -/
def HandlerBinding.payloadsFit : HandlerBinding → Bool
  | .table rows => rows.all fun r => decide (r.2.2.2.length ≤ Config.optMax)
  | .free _ => true

/-- The constraints on a binding: 30_encoding.md R111 (command identifiers pairwise distinct and below PRIVATE_OFFSET, which is at
least 1) and 93_implementation_defined.md section 2 (table modem types, HB_PERIOD > 0, 1 ≤ N_SYSINFO ≤ 128, handler payloads). -/
def Params.wf (p : Params) : Bool :=
  decide p.commandIds.Nodup
    && p.commandIds.all (fun c => decide (c < p.privateOffset))
    && decide (1 ≤ p.privateOffset.toNat)
    && decide (p.loraDefault.modemType = .lora)
    && decide (p.fskDefault.modemType = .fsk)
    && decide (0 < p.hbPeriod)
    && decide (1 ≤ p.nSysInfo) && decide (p.nSysInfo ≤ Config.optMax)
    && p.handler.payloadsFit

end Sys2Proof
end

