-- ==== Sys2Proof/WellFormed.lean ====
section
/-! DEFINITION. Which instructions a frame can carry: lengths (30_encoding.md R105) and the partition of function identifiers (R110). -/

namespace Sys2Proof

/-- The optional data fit the length byte's legal range 0..128 (30_encoding.md R105). -/
def Instr.dataFits (i : Instr) : Bool := decide (i.data.length ≤ Config.optMax)

/-- The function identifier an `unknown` or `privateCmd` carries is one that selects it (30_encoding.md R110). -/
def Instr.selectorFits (p : Params) : Instr → Bool
  | .ping _ => true
  | .retransmit _ => true
  | .retransmitCustom _ => true
  | .transmitSystemInfo _ => true
  | .getLastPacketInfo _ => true
  | .unknown f _ => decide (f < p.privateOffset) && decide (f ∉ p.commandIds)
  | .privateCmd f _ => decide (p.privateOffset ≤ f)

/-- A well-formed instruction under the binding `p`. -/
def Instr.wf (p : Params) (i : Instr) : Bool := i.dataFits && i.selectorFits p

/-- A legal station identifier: 1 to 32 bytes (10_state.md R31). -/
def identifierFits (id : List Byte) : Bool := decide (1 ≤ id.length) && decide (id.length ≤ Config.idMax)

end Sys2Proof
end

