-- ==== Sys2Proof/Decode.lean ====
section
/-! DEFINITION. The frame codec's pure functions (40_codec.md R140): command selection, header decode, extraction, frame length, the
decoder of an uplink frame and the encoder of an instruction. -/

namespace Sys2Proof

/-- The commands of 30_encoding.md R110, as RX_CMD holds them (10_state.md R44). -/
inductive Command
  | ping
  | retransmit
  | retransmitCustom
  | transmitSystemInfo
  | getLastPacketInfo
  | unknown (f : Byte)
  | privateCmd (f : Byte)
  deriving DecidableEq, Repr

/-- Command selection (30_encoding.md R110), its tests in the order written there. -/
def selectCommand (p : Params) (f : Byte) : Command :=
  if p.privateOffset ≤ f then .privateCmd f
  else if f = p.cmdPing then .ping
  else if f = p.cmdRetransmit then .retransmit
  else if f = p.cmdRetransmitCustom then .retransmitCustom
  else if f = p.cmdTransmitSystemInfo then .transmitSystemInfo
  else if f = p.cmdGetLastPacketInfo then .getLastPacketInfo
  else .unknown f

/-- The instruction a selected command and its optional data stand for. -/
def Command.toInstr (d : List Byte) : Command → Instr
  | .ping => .ping d
  | .retransmit => .retransmit d
  | .retransmitCustom => .retransmitCustom d
  | .transmitSystemInfo => .transmitSystemInfo d
  | .getLastPacketInfo => .getLastPacketInfo d
  | .unknown f => .unknown f d
  | .privateCmd f => .privateCmd f d

/-- The command an instruction was selected as. -/
def Instr.command : Instr → Command
  | .ping _ => .ping
  | .retransmit _ => .retransmit
  | .retransmitCustom _ => .retransmitCustom
  | .transmitSystemInfo _ => .transmitSystemInfo
  | .getLastPacketInfo _ => .getLastPacketInfo
  | .unknown f _ => .unknown f
  | .privateCmd f _ => .privateCmd f

/-- Why a frame is rejected (40_codec.md R141): the two decode errors of 60_exceptions.md R320. -/
inductive DecodeError
  | identifierMismatch
  | malformedLength
  deriving DecidableEq, Repr

/-- What `decodeHeader` returns with Ok (40_codec.md R141). -/
structure Header where
  functionId : Byte
  dataLength : Nat
  dataOffset : Nat
  deriving DecidableEq, Repr

/-- `frameLength` (40_codec.md R150). -/
def frameLength (idLen n : Nat) : Nat := idLen + 2 + n

/-- The compared part of the identifier: its leading ID_CMP_LEN = ID_LEN − 1 bytes (30_encoding.md R104). -/
def comparedId (id : List Byte) : List Byte := id.take (id.length - 1)

/-- Step 1 of `decodeHeader`: every compared byte was received and equals the configured one (40_codec.md R141, R142). -/
def identifierMatches : List Byte → List Byte → Bool
  | [], _ => true
  | _ :: _, [] => false
  | c :: cs, r :: rs => decide (r = c) && identifierMatches cs rs

/-- `decodeHeader` (40_codec.md R141) over the received bytes `rx`, whose number is RXLEN, and the configured identifier `id`, whose
number is ID_LEN. The checks come in the order of 60_exceptions.md R335. -/
def decodeHeader (id rx : List Byte) : Except DecodeError Header :=
  if identifierMatches (comparedId id) rx = false then .error .identifierMismatch
  else if rx.length < id.length + 2 then .error .malformedLength
  else if Config.optMax < (rx.getD (id.length + 1) 0).toNat then .error .malformedLength
  else if rx.length < frameLength id.length (rx.getD (id.length + 1) 0).toNat then .error .malformedLength
  else .ok
    { functionId := rx.getD id.length 0
      dataLength := (rx.getD (id.length + 1) 0).toNat
      dataOffset := id.length + 2 }

/-- The optional data of a decoded header, as the slice of the received bytes that `extractOptionalData` reads (40_codec.md R147, R148): bytes
beyond the declared length are left behind (R145). -/
def optionalDataOf (rx : List Byte) (h : Header) : List Byte := (rx.drop h.dataOffset).take h.dataLength

/-- The decoder: the instruction the received bytes hold, or the name of their rejection. Total on any bytes. -/
def decode (p : Params) (id rx : List Byte) : Except DecodeError Instr :=
  match decodeHeader id rx with
  | .error e => .error e
  | .ok h => .ok ((selectCommand p h.functionId).toInstr (optionalDataOf rx h))

/-! ## The encoder -/

/-- The function identifier byte of an instruction (30_encoding.md R111). -/
def Instr.functionId (p : Params) : Instr → Byte
  | .ping _ => p.cmdPing
  | .retransmit _ => p.cmdRetransmit
  | .retransmitCustom _ => p.cmdRetransmitCustom
  | .transmitSystemInfo _ => p.cmdTransmitSystemInfo
  | .getLastPacketInfo _ => p.cmdGetLastPacketInfo
  | .unknown f _ => f
  | .privateCmd f _ => f

/-- The one frame layout, of uplink and downlink alike (30_encoding.md R101, R103): identifier, code byte, length byte, optional data. -/
def frame (id : List Byte) (code : Byte) (d : List Byte) : List Byte := id ++ code :: BitVec.ofNat 8 d.length :: d

/-- The encoder: FRAME of 30_encoding.md R120 with the configured identifier. -/
def encode (p : Params) (id : List Byte) (i : Instr) : List Byte := frame id (i.functionId p) i.data

/-! ## The opcode table's words -/

/-- Byte `k` of a table word of `nbits` bits: bit 0 of the word is the least significant bit of byte 0, and the bits from `nbits` up
are 0. -/
def wordByte (nbits w k : Nat) : Byte := BitVec.ofNat 8 (w % 2 ^ nbits / 256 ^ k)

/-- The bytes after the identifier that a table word stands for: the function identifier, the length byte, and as many data bytes as the
length byte declares, up to 128 (log 18). -/
def wordBytes (nbits w : Nat) : List Byte :=
  (List.range (2 + min (wordByte nbits w 1).toNat Config.optMax)).map (wordByte nbits w)

/-- The instruction the decoder reads from a table word behind the reference identifier, under the reference binding (log 18). -/
def decodeTableWord (nbits w : Nat) : Option Instr :=
  match decode Params.reference Config.referenceId (Config.referenceId ++ wordBytes nbits w) with
  | .error _ => none
  | .ok i => some i

end Sys2Proof
end

