-- ==== Sys2Proof/Machine/State.lean ====
section
/-! DEFINITION. The state of the frame engine: every register of 10_state.md R50, the fault set, the trace, the parameters (R10) and
the environment's script (10_state.md R61, R64). -/

namespace Sys2Proof.Machine

/-- A register that 10_state.md R50 lists as "unwritten" at reset: the value it holds, and whether a step has written it since. "Unwritten" is
the spec's own mark on such a register, and a read of it is the fault the spec names, `Unwritten` (R48, log 11); the value it holds until
then, which no rule reads, is the model's choice (log 30). -/
inductive Reg (α : Type) where
  | unwritten (a : α)
  | holds (a : α)
  deriving DecidableEq, Repr

/-- A byte-addressed space (20_memory.md R70): (offset, byte) pairs, offsets strictly rising. An unlisted offset holds no value (10_state.md
R50 "every byte unwritten"), log 13. -/
abbrev Memory := List Host.Cell

/-- The address spaces of 20_memory.md R70. -/
inductive Space
  | rx
  | tx
  | ids
  deriving DecidableEq, Repr

/-- Model faults (60_exceptions.md R322). Each is recorded in FAULT by the step that meets it, and every later SEQ turn answers it as
its outcome (log 10). Recording one instead of going on is safe. -/
inductive Fault
  /-- Raised by an access outside a space's current bound or a payload over 128 bytes (20_memory.md R72, R73; 40_codec.md R152). Safe. -/
  | codecBounds
  /-- Raised by a read of a register or byte still unwritten since reset (10_state.md R48). Safe. -/
  | unwritten
  /-- Raised by a transmit request while TXSTATE is not Idle (43_transmit_fsm.md R262). Safe. -/
  | txReentry
  deriving DecidableEq, Repr

/-- Why a step is refused. Apart from `notModelled`, each names a move of ENV that the spec says the host never makes (10_state.md
R64; 93_implementation_defined.md section 6, "treatment: refuse"). A refusal is safe for hosts that keep the duty (log 9). -/
inductive Refusal
  /-- Raised by an arm of `exec` for an instruction without a meaning. Safe. -/
  | notModelled (mnemonic : String)
  /-- Raised by a scheduled RX_DELIVER of more than RX_CAP bytes. Safe under the host duty. -/
  | deliveryTooLong
  /-- Raised by a scheduled TX_REQ outside SEQ_PHASE = Idle or of more than TX_CAP bytes. Safe under the host duty. -/
  | txReqNotAccepted
  /-- Raised by a scheduled MODEM_REQ outside SEQ_PHASE = TXSTATE = Idle. Safe under the host duty. -/
  | modemReqNotAccepted
  /-- Raised by a scheduled MODEM_REQ whose configuration is neither static table. Safe under the host duty of 70_reset_and_hazards.md R396. -/
  | modemReqNotATable
  /-- Raised by a scheduled write of INT_EN inside the receive-service bracket, in Boot or in Halted. Safe under the host duty. -/
  | intEnWriteInBracket
  /-- Raised by a `getCallsign` answer whose length is outside 1..32 or exceeds its bytes. Safe under the host duty. -/
  | callsignOutOfRange
  deriving DecidableEq, Repr

/-- TXSTATE (10_state.md R41; 43_transmit_fsm.md R260). -/
inductive TxState
  | idle
  | preparing
  | sending
  | done
  | timedOut
  | rejected
  | halted
  deriving DecidableEq, Repr

/-- TxResult (60_exceptions.md R321). -/
inductive TxResult
  | ok
  | txTimeout
  | txDisabled
  | startError (s : Int)
  deriving DecidableEq, Repr

/-- SEQ_PHASE (10_state.md R44). -/
inductive SeqPhase
  | boot
  | idle
  | rxAck
  | rxDecode
  | rxTx
  | rxPost
  | rxEnd
  | extTx
  | halted
  deriving DecidableEq, Repr

/-- What a Log event carries (60_exceptions.md R320, R323; 41_commands.md R205, R212, R214). -/
inductive LogEntry
  | identifierMismatch
  | malformedLength
  | unknownFunction (f : Byte)
  | commandPrecondition
  | linkFault (k : LinkErr)
  | txTimeout
  | txDisabled
  | startError (s : Int)
  | sysInfoField (k : Nat) (b : Byte)
  | privateFrame (f : Byte)
  deriving DecidableEq, Repr

/-- One item of the ordered list `params(cfg)` (42_link_manager.md R235). -/
inductive ApplyItem
  | carrierFrequency (v : OpenValue)
  | bandwidth (v : RealValue)
  | spreadingFactor (v : Byte)
  | codingRate (v : Byte)
  | syncWord (v : OpenValue)
  | outputPower (v : Byte)
  | currentLimit (v : OpenValue)
  | preambleLength (v : HalfWord)
  | crcMode (v : Bool)
  | fixedSyncWord (v : OpenValue)
  | fixedCrcLength (v : OpenValue)
  | oscillatorVoltage (v : OpenValue)
  deriving DecidableEq, Repr

/-- The callback of `setDio1Action` (10_state.md R60). -/
inductive Dio1Action
  | rxIsr
  | none
  deriving DecidableEq, Repr

/-- The operation of a collaborator call with its arguments and its result (10_state.md R60): every operation the document names, and the
reads of the further system-info fields (41_commands.md R205). No step issues `readByte`, `readBuffer` or `sleep`. -/
inductive Call
  | readByte (addr : Nat) (result : Byte)
  | readBuffer (addr len : Nat) (result : List Byte)
  | getCallsign (bytes : List Byte) (len : Nat)
  | isTransmissionEnabled (result : Bool)
  | incrementFrameCounter (modem : ModemType) (valid : Bool)
  | readBusVoltage (result : RealValue)
  | readSnr (result : RealValue)
  | readRssi (result : RealValue)
  | readField (k : Nat) (result : RealValue)
  | begin (params : List ApplyItem) (result : LinkStatus)
  | startTransmit (buf : List Byte) (len : Nat) (result : Int)
  | standby
  | sleep
  | getTimeOnAir (len : Nat) (result : Nat)
  | setDio1Action (callback : Dio1Action)
  | startReceive
  | heartbeat
  | restart
  deriving DecidableEq, Repr

/-- The collaborator that offers an operation (10_state.md R60). SNR and RSSI are the sensors' (41_commands.md R208); who answers a further
system-info field is OPEN (log 20). -/
@[simp] def Call.collaborator : Call → Collaborator
  | .readByte _ _ => .storage
  | .readBuffer _ _ _ => .storage
  | .getCallsign _ _ => .storage
  | .isTransmissionEnabled _ => .storage
  | .incrementFrameCounter _ _ => .storage
  | .readBusVoltage _ => .sensors
  | .readSnr _ => .sensors
  | .readRssi _ => .sensors
  | .readField k _ => Config.fieldSource k
  | .begin _ _ => .radio
  | .startTransmit _ _ _ => .radio
  | .standby => .radio
  | .sleep => .radio
  | .getTimeOnAir _ _ => .radio
  | .setDio1Action _ => .radio
  | .startReceive => .radio
  | .heartbeat => .watchdog
  | .restart => .watchdog

/-- An event of TRACE: `Call(collaborator, op, args, result)` or an emitted log (10_state.md R46, R60; 00_scope.md R16). -/
inductive Event
  | call (who : Collaborator) (c : Call)
  | log (e : LogEntry)
  deriving DecidableEq, Repr

/-- The moves ENV may make (10_state.md R61, R64). `setIntEn` and `clearSwitchModem` are the scheduling logic's writes. -/
inductive PortEvent
  | rxDeliver (bytes : List Byte)
  | tmrEvent
  | txReq (bytes : List Byte) (override : Bool)
  | modemReq (cfg : ModemConfig)
  | setIntEn (b : Bool)
  | clearSwitchModem
  | reset
  deriving DecidableEq, Repr

/-- The agents (00_scope.md R7): the sequencer, the two interrupt handlers, and the environment. -/
inductive Agent
  | seq
  | isrRx
  | isrTmr
  | env
  deriving DecidableEq, Repr

/-- Whose step comes next (00_scope.md R8): SEQ's, or a port event's. The interrupt handlers take their steps with the port event that
invokes them (92_eei_decisions.md D46), as `Turn.agents` says. -/
inductive Turn
  | seq
  | port (e : PortEvent)
  deriving DecidableEq, Repr

/-- The environment's script: the turns it has scheduled and the answers it has ready, one queue per kind of draw (00_scope.md R16). An
empty schedule gives SEQ its turn (log 6); an empty queue makes the draw a free value of `drawn` (log 7). `now` is NOW as last read
and `timeSteps` by how much it grows at each read (10_state.md R62, log 8). -/
structure Env where
  schedule : List Turn
  callsigns : List (List Byte × Nat)
  linkStatuses : List LinkStatus
  startStatuses : List Int
  timesOnAir : List Nat
  enables : List Bool
  busVoltages : List RealValue
  snrs : List RealValue
  rssis : List RealValue
  fieldReads : List RealValue
  txDones : List Bool
  timeSteps : List Nat
  anyBytes : List Byte
  drawn : Nat
  now : Nat
  deriving DecidableEq, Repr

/-- The state: the registers of 10_state.md R50 under its names, then FAULT and TRACE, the parameters and the environment's script. -/
structure State where
  par : Params
  env : Env
  idBuf : Memory
  idLen : Reg Nat
  rxBuf : Memory
  rxLen : Nat
  txBuf : Memory
  txLen : Nat
  intEn : Bool
  dataRx : Bool
  switchModem : Bool
  rxLineEn : Bool
  curCfg : Reg ModemConfig
  restoreCfg : Reg ModemConfig
  restorePending : Bool
  txState : TxState
  txOverride : Bool
  txTimeout : Reg Nat
  txT0 : Reg Nat
  txLastBeat : Reg Nat
  txResult : Reg TxResult
  txPendingResult : Reg TxResult
  txStarted : Bool
  txExitNeeded : Bool
  seqPhase : SeqPhase
  intSave : Reg Bool
  rxCmd : Reg Command
  fault : List Fault
  trace : List Event
  deriving DecidableEq, Repr

/-- The environment with nothing scheduled and no answer ready (log 6, log 7, log 8). -/
def Env.silent : Env where
  schedule := []
  callsigns := []
  linkStatuses := []
  startStatuses := []
  timesOnAir := []
  enables := []
  busVoltages := []
  snrs := []
  rssis := []
  fieldReads := []
  txDones := []
  timeSteps := []
  anyBytes := []
  drawn := 0
  now := 0

/-- The configuration that CUR_CFG and RESTORE_CFG hold until they are written. DESIGN CHOICE, log 30. -/
def ModemConfig.atReset : ModemConfig where
  modemType := .lora
  bandwidth := .rational 0
  spreadingFactor := 0
  codingRate := 0
  preambleLength := 0
  crcEnabled := false
  outputPower := 0
  carrierFrequency := 0
  syncWord := 0
  currentLimit := 0

/-- The block after a reset, under a binding and an environment that the reset does not touch (10_state.md R50; 70_reset_and_hazards.md
R380, R383). The value in an unwritten register is the model's choice, log 30. -/
def State.afterReset (par : Params) (env : Env) : State where
  par := par
  env := env
  idBuf := []
  idLen := .unwritten 1
  rxBuf := []
  rxLen := 0
  txBuf := []
  txLen := 0
  intEn := false
  dataRx := false
  switchModem := false
  rxLineEn := false
  curCfg := .unwritten ModemConfig.atReset
  restoreCfg := .unwritten ModemConfig.atReset
  restorePending := false
  txState := .idle
  txOverride := false
  txTimeout := .unwritten 0
  txT0 := .unwritten 0
  txLastBeat := .unwritten 0
  txResult := .unwritten .ok
  txPendingResult := .unwritten .ok
  txStarted := false
  txExitNeeded := false
  seqPhase := .boot
  intSave := .unwritten false
  rxCmd := .unwritten .ping
  fault := []
  trace := []

/-- The machine right after reset (10_state.md R50), under the reference binding (log 1), with a silent environment (log 6). -/
def State.reset : State := State.afterReset Params.reference Env.silent

end Sys2Proof.Machine
end

