-- ==== Sys2Proof/Machine/Ops.lean ====
section
/-! DEFINITION. The named operations over the byte spaces and the registers, collaborator calls and their draws, the model faults, taking
a LinkFault and the reset that leaves it, `setModem`, `encodeResponse` and `requestTransmit`. -/

namespace Sys2Proof.Machine

/-! ## Byte spaces (20_memory.md R70) -/

/-- The byte at an offset, if one is there. -/
def Memory.byte : Memory → Nat → Option Byte
  | [], _ => none
  | c :: m, a => if c.1 = a then some c.2 else Memory.byte m a

/-- The memory with one byte written, in canonical form. -/
def Memory.put (a : Nat) (b : Byte) : Memory → Memory
  | [] => [(a, b)]
  | c :: m => if a < c.1 then (a, b) :: c :: m else if a = c.1 then (a, b) :: m else c :: Memory.put a b m

/-- The memory with a byte string written from an offset up (00_scope.md R15). -/
def Memory.write (m : Memory) (off : Nat) : List Byte → Memory
  | [] => m
  | b :: bs => Memory.write (Memory.put off b m) (off + 1) bs

/-- The byte string of `n` bytes from an offset up, if every one of them is there (00_scope.md R15). -/
def Memory.read (m : Memory) (off : Nat) : Nat → Option (List Byte)
  | 0 => some []
  | n + 1 =>
    match m.byte off, Memory.read m (off + 1) n with
    | some b, some bs => some (b :: bs)
    | _, _ => none

/-- The canonical form: offsets strictly rising, so that equal memories are equal data. -/
abbrev Memory.wf (m : Memory) : Prop := m.Pairwise fun x y => x.1 < y.1

/-! ## A step under way (00_scope.md R14, R17) -/

/-- How far a step has come: still running, or ended early by a fatal error or a model fault. The writes made so far stand in the state. -/
inductive Flow
  | run (s : State)
  | ended (s : State)
  deriving DecidableEq, Repr

/-- The next statement of a step, which does not run when the step has ended (00_scope.md R14). -/
def Flow.andThen (f : Flow) (k : State → Flow) : Flow :=
  match f with
  | .run s => k s
  | .ended s => .ended s

/-- The state the step leaves. -/
def Flow.state : Flow → State
  | .run s => s
  | .ended s => s

/-- A step's outcome: its state, whether or not it ended early. -/
def Flow.outcome (f : Flow) : Host.Outcome State Fault Refusal := .next f.state

/-! ## Trace, faults, draws -/

/-- `emit Log(e)` (00_scope.md R16). -/
@[simps] def State.log (e : LogEntry) (s : State) : State := { s with trace := s.trace ++ [.log e] }

/-- A collaborator call, recorded under its collaborator's name, with the environment left after its answer was drawn (00_scope.md R16;
10_state.md R60; 20_memory.md R90). -/
@[simps] def State.call (c : Call) (env : Env) (s : State) : State :=
  { s with trace := s.trace ++ [.call c.collaborator c], env := env }

/-- `fault F`: F is in FAULT afterwards (10_state.md R45; 60_exceptions.md R322). -/
@[simps] def State.raise (f : Fault) (s : State) : State := { s with fault := if f ∈ s.fault then s.fault else s.fault ++ [f] }

/-- The step meets a model fault: it records it and makes no further write (60_exceptions.md R322). -/
def raiseFault (f : Fault) (s : State) : Flow := .ended (s.raise f)

/-- Reading a register. One still unwritten since reset is the fault Unwritten, by the words of 10_state.md R48: "Reading any register listed as
'unwritten' at reset, before a step writes it, is a model fault `Unwritten`". -/
def Reg.read {α : Type} : Reg α → Except Fault α
  | .holds a => .ok a
  | .unwritten _ => .error .unwritten

/-- A register read inside a step: its value goes to the rest of the step, a fault ends it (60_exceptions.md R322). -/
def Reg.use {α : Type} (r : Reg α) (s : State) (k : α → Flow) : Flow :=
  match r.read with
  | .ok a => k a
  | .error f => raiseFault f s

/-- Whether a register has been written since reset (10_state.md R48). -/
def Reg.isWritten {α : Type} : Reg α → Bool
  | .holds _ => true
  | .unwritten _ => false

/-- The value a register holds, written or not; a step reads it through `Reg.use`. -/
def Reg.value {α : Type} : Reg α → α
  | .holds a => a
  | .unwritten a => a

/-- The answer to `storage.getCallsign()` (10_state.md R60). The free one is a length in 1..32 and that many free bytes with any free bytes after
them: every answer that keeps the host duty of R64, and no other (log 7). -/
def Env.callsign (e : Env) : List Byte × Nat :=
  match e.callsigns with
  | a :: _ => a
  | [] =>
    let (last, bytes, rest) := Config.freeCallsign e.drawn
    (((List.finRange 32).map bytes).take (last.val + 1) ++ rest, last.val + 1)
/-- The environment after that answer. -/
@[simps] def Env.popCallsign (e : Env) : Env := { e with callsigns := e.callsigns.tail, drawn := e.drawn + 1 }

/-- The answer to `radio.begin` (10_state.md R60). -/
def Env.linkStatus (e : Env) : LinkStatus := e.linkStatuses.headD (Config.freeLinkStatus e.drawn)
/-- The environment after that answer. -/
@[simps] def Env.popLinkStatus (e : Env) : Env := { e with linkStatuses := e.linkStatuses.tail, drawn := e.drawn + 1 }

/-- The answer to `radio.startTransmit` (10_state.md R60). -/
def Env.startStatus (e : Env) : Int := e.startStatuses.headD (Config.freeStartStatus e.drawn)
/-- The environment after that answer. -/
@[simps] def Env.popStartStatus (e : Env) : Env := { e with startStatuses := e.startStatuses.tail, drawn := e.drawn + 1 }

/-- The answer to `radio.getTimeOnAir` (10_state.md R60). -/
def Env.timeOnAir (e : Env) : Nat := e.timesOnAir.headD (Config.freeTimeOnAir e.drawn)
/-- The environment after that answer. -/
@[simps] def Env.popTimeOnAir (e : Env) : Env := { e with timesOnAir := e.timesOnAir.tail, drawn := e.drawn + 1 }

/-- The answer to `storage.isTransmissionEnabled` (10_state.md R38, R60). -/
def Env.enable (e : Env) : Bool := e.enables.headD (Config.freeEnable e.drawn)
/-- The environment after that answer. -/
@[simps] def Env.popEnable (e : Env) : Env := { e with enables := e.enables.tail, drawn := e.drawn + 1 }

/-- The answer to `sensors.readBusVoltage` (10_state.md R60). -/
def Env.busVoltage (e : Env) : RealValue := e.busVoltages.headD (.named e.drawn)
/-- The environment after that answer. -/
@[simps] def Env.popBusVoltage (e : Env) : Env := { e with busVoltages := e.busVoltages.tail, drawn := e.drawn + 1 }

/-- The answer to `sensors.readSNR` (10_state.md R60). -/
def Env.snr (e : Env) : RealValue := e.snrs.headD (.named e.drawn)
/-- The environment after that answer. -/
@[simps] def Env.popSnr (e : Env) : Env := { e with snrs := e.snrs.tail, drawn := e.drawn + 1 }

/-- The answer to `sensors.readRSSI` (10_state.md R60). -/
def Env.rssi (e : Env) : RealValue := e.rssis.headD (.named e.drawn)
/-- The environment after that answer. -/
@[simps] def Env.popRssi (e : Env) : Env := { e with rssis := e.rssis.tail, drawn := e.drawn + 1 }

/-- The answer to the read of a further system-info field (41_commands.md R205). -/
def Env.fieldRead (e : Env) : RealValue := e.fieldReads.headD (.named e.drawn)
/-- The environment after that answer. -/
@[simps] def Env.popFieldRead (e : Env) : Env := { e with fieldReads := e.fieldReads.tail, drawn := e.drawn + 1 }

/-- The level TX_DONE shows (10_state.md R61). -/
def Env.txDone (e : Env) : Bool := e.txDones.headD (Config.freeTxDone e.drawn)
/-- The environment after that read. -/
@[simps] def Env.popTxDone (e : Env) : Env := { e with txDones := e.txDones.tail, drawn := e.drawn + 1 }

/-- ANY_u8 (41_commands.md R207). -/
def Env.anyByte (e : Env) : Byte := e.anyBytes.headD (Config.freeByte e.drawn)
/-- The environment after that draw. -/
@[simps] def Env.popAnyByte (e : Env) : Env := { e with anyBytes := e.anyBytes.tail, drawn := e.drawn + 1 }

/-- NOW: not below the last read, by construction (10_state.md R62; log 8). -/
def Env.readNow (e : Env) : Nat := e.now + e.timeSteps.headD (Config.freeTimeStep e.drawn)
/-- The environment after that read. -/
@[simps] def Env.popNow (e : Env) : Env := { e with now := e.readNow, timeSteps := e.timeSteps.tail, drawn := e.drawn + 1 }

/-- The state after a read of a port that leaves no trace event (TX_DONE, NOW, ANY_u8). -/
@[simps] def State.withEnv (env : Env) (s : State) : State := { s with env := env }

/-! ## MemRead and MemWrite (00_scope.md R15) -/

/-- The bytes of a space with a current bound: past the bound CodecBounds (20_memory.md R72), and a byte within it that was never written, which
10_state.md R50 lists as unwritten, is Unwritten (R48). -/
def Memory.fetch (m : Memory) (bound off n : Nat) : Except Fault (List Byte) :=
  if bound < off + n then .error .codecBounds
  else match m.read off n with
    | some bs => .ok bs
    | none => .error .unwritten

/-- `MemRead(SPACE, off, n)` (00_scope.md R15), bounded by RXLEN, TXLEN or ID_LEN (20_memory.md R72). -/
def memRead (sp : Space) (off n : Nat) (s : State) : Except Fault (List Byte) :=
  match sp with
  | .rx => s.rxBuf.fetch s.rxLen off n
  | .tx => s.txBuf.fetch s.txLen off n
  | .ids => s.idLen.read.bind fun idLen => s.idBuf.fetch idLen off n

/-- One byte of a space, `MemRead(SPACE, off, 1)`. -/
def memReadByte (sp : Space) (off : Nat) (s : State) : Except Fault Byte := (memRead sp off 1 s).map fun bs => bs.headD 0

/-- A MemRead inside a step: the bytes go to the rest of the step, a fault ends it. -/
def withBytes (r : Except Fault (List Byte)) (s : State) (k : List Byte → Flow) : Flow :=
  match r with
  | .ok bs => k bs
  | .error f => raiseFault f s

/-- The configured identifier `ID[0..ID_LEN−1]` (10_state.md R31). -/
def readId (s : State) : Except Fault (List Byte) := s.idLen.read.bind fun idLen => memRead .ids 0 idLen s

/-- The received bytes `RXBUF[0..RXLEN−1]` (10_state.md R32). -/
def readReceived (s : State) : Except Fault (List Byte) := memRead .rx 0 s.rxLen s

/-- The frame to send, `TXBUF[0..TXLEN−1]` (10_state.md R33). -/
def readTransmit (s : State) : Except Fault (List Byte) := memRead .tx 0 s.txLen s

/-- How many bytes a space can hold (20_memory.md R70). -/
def Space.capacity : Space → Nat
  | .rx => Config.frameMax
  | .tx => Config.frameMax
  | .ids => Config.idMax

/-- `MemWrite(SPACE, off, len(bytes), bytes)` (00_scope.md R15), with the bound of 20_memory.md R73 for TX, and the same at the capacities of RX
and IDS, where no rule names a fault and no step writes so (log 27). -/
def memWrite (sp : Space) (off : Nat) (bytes : List Byte) (s : State) : Flow :=
  if sp.capacity < off + bytes.length then raiseFault .codecBounds s
  else match sp with
    | .rx => .run { s with rxBuf := s.rxBuf.write off bytes }
    | .tx => .run { s with txBuf := s.txBuf.write off bytes }
    | .ids => .run { s with idBuf := s.idBuf.write off bytes }

/-- `MemWrite(TX, 0, len(bytes), bytes); TXLEN <- len(bytes)` (40_codec.md R152; 43_transmit_fsm.md R262). -/
def storeTransmit (bytes : List Byte) (s : State) : Flow :=
  (memWrite .tx 0 bytes s).andThen fun s1 => .run { s1 with txLen := bytes.length }

/-! ## The fatal error: entry and return -/

/-- Taking a LinkFault (60_exceptions.md R340): it is logged, the watchdog is asked to restart, and the FSM and the sequencer halt.
Nothing is saved, no flag changes and the writes made before it stand. -/
@[simps] def takeLinkFault (k : LinkErr) (s : State) : State :=
  { s with
    trace := s.trace ++ [.log (.linkFault k), .call .watchdog .restart]
    txState := .halted
    seqPhase := .halted }

/-- RESET, the only way out of Halted (60_exceptions.md R341; 70_reset_and_hazards.md R380): every register takes its reset value, and
ENV's own state and the parameters stay as they are (70_reset_and_hazards.md R383; log 19). -/
@[simps!] def resetBlock (s : State) : State := State.afterReset s.par s.env

/-! ## The link manager -/

/-- `params(cfg)` (42_link_manager.md R235), with the fixed items of the narrowband modem after the shared ones and the oscillator voltage
last (log 22). -/
def applyItems (p : Params) (cfg : ModemConfig) : List ApplyItem :=
  [.carrierFrequency cfg.carrierFrequency, .bandwidth cfg.bandwidth, .spreadingFactor cfg.spreadingFactor, .codingRate cfg.codingRate,
    .syncWord cfg.syncWord, .outputPower cfg.outputPower, .currentLimit cfg.currentLimit, .preambleLength cfg.preambleLength,
    .crcMode cfg.crcEnabled]
  ++ (match cfg.modemType with
    | .lora => []
    | .fsk => [.fixedSyncWord p.fskSyncWord, .fixedCrcLength p.fskCrcLen])
  ++ [.oscillatorVoltage p.tcxoVoltage]

/-- The state right after the `begin(params(cfg))` call of `setModem`. -/
@[simps!] def callBegin (cfg : ModemConfig) (s : State) : State :=
  s.call (.begin (applyItems s.par cfg) s.env.linkStatus) s.env.popLinkStatus

/-- `setModem(cfg)` (42_link_manager.md R233): one begin call; CUR_CFG on success only (R234); a failure is fatal and never retried (R236). -/
def setModem (cfg : ModemConfig) (s : State) : Flow :=
  match s.env.linkStatus with
  | .ok => .run { callBegin cfg s with curCfg := .holds cfg }
  | .err k => .ended (takeLinkFault k (callBegin cfg s))

/-- The static table of a modem type (42_link_manager.md R230). -/
def staticTable (p : Params) : ModemType → ModemConfig
  | .lora => p.loraDefault
  | .fsk => p.fskDefault

/-! ## Responses -/

/-- `encodeResponse(respId, data)` (40_codec.md R152). -/
def encodeResponse (respId : Byte) (d : List Byte) (s : State) : Flow :=
  if Config.optMax < d.length then raiseFault .codecBounds s
  else withBytes (readId s) s fun id => storeTransmit (frame id respId d) s

/-- `requestTransmit(ov)` (41_commands.md R183); while a transmission is in progress it is the fault TxReentry (43_transmit_fsm.md R262). -/
def requestTransmit (ov : Bool) (s : State) : Flow :=
  if s.txState = .idle then .run { s with txOverride := ov, txState := .preparing, seqPhase := .rxTx }
  else raiseFault .txReentry s

/-- RX_CMD <- c, the first write of `dispatch` (41_commands.md R180). -/
@[simps] def State.selectCmd (c : Command) (s : State) : State := { s with rxCmd := .holds c }

/-- The end of a command that sends nothing: it is logged and the receive service goes on to its end (41_commands.md R195 `skip`, R212, R214). -/
@[simps] def silentEnd (e : LogEntry) (s : State) : State := { s with trace := s.trace ++ [.log e], seqPhase := .rxEnd }

end Sys2Proof.Machine
end

