-- ==== Sys2Proof/Machine/Flags.lean ====
section
/-! DEFINITION. The one-bit flags: the interrupt gate, the interrupt handlers, the receive-service bracket, the receive line, and the errors
a step logs. -/

namespace Sys2Proof.Machine

/-- ISR_RX (60_exceptions.md R330): DATA_RX is set if INT_EN is, and nothing else happens. -/
@[simps] def isrRx (s : State) : State := { s with dataRx := s.dataRx || s.intEn }

/-- ISR_TMR (60_exceptions.md R331): SWITCH_MODEM is set if INT_EN is; RXLINE_EN does not gate it. -/
@[simps] def isrTmr (s : State) : State := { s with switchModem := s.switchModem || s.intEn }

/-- The receive-ready event after a delivery: it reaches ISR_RX while the line is attached and is lost otherwise (60_exceptions.md R330, R333). -/
def receiveReady (s : State) : State := if s.rxLineEn then isrRx s else s

/-- The opening of the interrupt bracket (40_codec.md R161): INT_EN is saved and cleared. -/
@[simps] def openBracket (s : State) : State := { s with intSave := .holds s.intEn, intEn := false }

/-- The bracket's window, in which ENV never writes INT_EN (10_state.md R64: SEQ_PHASE outside Idle and ExtTx). -/
def inBracket (s : State) : Bool := decide (s.seqPhase ≠ .idle) && decide (s.seqPhase ≠ .extTx)

/-- Detaching the receive handler: `setDio1Action(NONE)` with RXLINE_EN <- 0 (43_transmit_fsm.md R266). -/
@[simps] def detachLine (s : State) : State :=
  { s with trace := s.trace ++ [.call .radio (.setDio1Action .none)], rxLineEn := false }

/-- Attaching the receive handler and listening again: `setDio1Action(RX_ISR)`, RXLINE_EN <- 1, `startReceive()` (43_transmit_fsm.md R290;
70_reset_and_hazards.md R385). -/
@[simps] def attachLine (s : State) : State :=
  { s with trace := s.trace ++ [.call .radio (.setDio1Action .rxIsr), .call .radio .startReceive], rxLineEn := true }

/-- The numeric code of an error inside its Log event (60_exceptions.md R320); a Log that is no error of that table has none. -/
def LogEntry.code : LogEntry → Option Byte
  | .identifierMismatch => some 0x01
  | .malformedLength => some 0x02
  | .unknownFunction _ => some 0x03
  | .commandPrecondition => some 0x10
  | .linkFault .chipNotFound => some 0x20
  | .linkFault .commandFailed => some 0x21
  | .linkFault .commandInvalid => some 0x22
  | .txTimeout => some 0x30
  | .txDisabled => some 0x31
  | .startError _ => some 0x32
  | .sysInfoField _ _ => none
  | .privateFrame _ => none

/-- The Log entry of a decode error (40_codec.md R160). -/
def decodeErrorLog : DecodeError → LogEntry
  | .identifierMismatch => .identifierMismatch
  | .malformedLength => .malformedLength

/-- `if TX_RESULT ≠ Ok: emit Log(TX_RESULT)` (41_commands.md R182). -/
def logResult (r : TxResult) (s : State) : State :=
  match r with
  | .ok => s
  | .txTimeout => s.log .txTimeout
  | .txDisabled => s.log .txDisabled
  | .startError e => s.log (.startError e)

end Sys2Proof.Machine
end

