-- ==== Sys2Proof/Machine/Operands.lean ====
section
/-! DEFINITION. Operand assembly of RETRANSMIT_CUSTOM, the telemetry quantizers and roundings, and the evaluation of the function-valued
parameters. -/

namespace Sys2Proof.Machine

/-- BW_TABLE in kHz (30_encoding.md R109; 00_scope.md R10), indexed by the bandwidth byte; only 0..7 name an entry. -/
def bandwidthKhz (b : Byte) : Rat :=
  match b.toNat with
  | 0 => 39 / 5
  | 1 => 52 / 5
  | 2 => 78 / 5
  | 3 => 104 / 5
  | 4 => 125 / 4
  | 5 => 417 / 10
  | 6 => 125 / 2
  | _ => 125

/-- Byte `i` of the optional data. -/
def operandByte (d : List Byte) (i : Nat) : Byte := d.getD i 0

/-- The little-endian preamble length at offset 3 (20_memory.md R75). -/
def preambleOf (d : List Byte) : HalfWord :=
  (operandByte d 3).setWidth 16 ||| ((operandByte d 4).setWidth 16 <<< 8)

/-- `cfgFromCustom(d)` (30_encoding.md R108). The power byte is kept as s8. -/
def cfgFromCustom (p : Params) (d : List Byte) : ModemConfig where
  modemType := .lora
  bandwidth := .rational (bandwidthKhz (operandByte d 0))
  spreadingFactor := operandByte d 1
  codingRate := operandByte d 2
  preambleLength := preambleOf d
  crcEnabled := decide (operandByte d 5 = 1)
  outputPower := operandByte d 6
  carrierFrequency := p.loraDefault.carrierFrequency
  syncWord := p.loraDefault.syncWord
  currentLimit := p.loraDefault.currentLimit

/-- The payload to echo: bytes 7 to n−1 (30_encoding.md R107). -/
def echoOf (d : List Byte) : List Byte := d.drop 7

/-- LORA_CFG_VALID under its binding (42_link_manager.md R232). -/
def configAccepts : ConfigCheck → ModemConfig → Bool
  | .rejecting l, cfg => decide (cfg ∉ l)
  | .free k, cfg => Config.freeConfigCheck k cfg

/-- The checks of RETRANSMIT_CUSTOM on the optional data alone (41_commands.md R197, its first three rows). -/
def customShapeOk (d : List Byte) : Bool :=
  decide (Config.customMin ≤ d.length) && decide (d.length ≤ Config.customMax)
    && decide ((operandByte d 0).toNat ≤ 7)
    && (decide (operandByte d 5 = 0) || decide (operandByte d 5 = 1))

/-- All the preconditions of RETRANSMIT_CUSTOM (41_commands.md R197); LORA_CFG_VALID comes last (60_exceptions.md R335). -/
def customAccepted (p : Params) (d : List Byte) : Bool := customShapeOk d && configAccepts p.loraCfgValid (cfgFromCustom p d)

/-- PRIVATE_HANDLER under its binding (41_commands.md R214); an unspecified handler's payload is at most 128 bytes. -/
def handlerAnswer : HandlerBinding → Byte → List Byte → Option (Byte × List Byte)
  | .table rows, f, d => (rows.find? fun r => decide (r.1 = f) && decide (r.2.1 = d)).map fun r => (r.2.2.1, r.2.2.2)
  | .free k, f, d => (Config.freeHandler k f d).map fun r => (r.1, r.2.take Config.optMax)

/-- Q_V under its binding (41_commands.md R206), the reference one as `min(255, max(0, floor(v × 1000 / VOLTAGE_MULTIPLIER)))`. The multiplier is
any rational, and at 0, where that quotient has no value, the byte is free. DESIGN CHOICE, log 28. -/
def quantizeVoltage (p : Params) (v : RealValue) : Byte :=
  match p.quantizer with
  | .reference =>
    if p.voltageMultiplier = 0 then Config.freeQuotient v.floorMul
    else BitVec.ofNat 8 (min 255 (max 0 (v.floorMul (1000 / p.voltageMultiplier)))).toNat
  | .free k => Config.freeQuantizer k p.voltageMultiplier v.floorMul

/-- The products, rounded down, of the real `v × m` (`IsCutOf`). -/
def scaled (v : RealValue) (m : Rat) : Rat → Int := fun c => v.floorMul (m * c)

/-- ROUND under its binding (00_scope.md R10, 93_implementation_defined.md section 2), of the real `x` whose products rounded down are `f`:
`f 1` is ⌊x⌋, `f 2` is ⌊2x⌋, `f (-1)` is ⌊−x⌋. -/
def roundReal (b : RoundBinding) (f : Rat → Int) : Int :=
  match b with
  | .halfAwayFromZero => if 0 ≤ f 1 then (f 2 + 1) / 2 else -((f (-2) + 1) / 2)
  | .halfToEven =>
    if f 2 < 2 * f 1 + 1 then f 1
    else if f (-2) = -(2 * f 1 + 1) ∧ f 1 % 2 = 0 then f 1
    else f 1 + 1
  | .free k => if f (-1) = -f 1 then f 1 else Config.freeRound k f

/-- An integer as a byte where it lies in `lo .. hi`, and ANY_u8 elsewhere, with the environment left (41_commands.md R207). -/
def byteOrAny (lo hi a : Int) (e : Env) : Byte × Env :=
  if lo ≤ a ∧ a ≤ hi then (Byte.ofResidue a, e) else (e.anyByte, e.popAnyByte)

/-- The SNR byte (41_commands.md R207): s8 of ROUND(snr × 4), or ANY_u8 outside −128..127. -/
def snrByte (p : Params) (snr : RealValue) (e : Env) : Byte × Env := byteOrAny (-128) 127 (roundReal p.round (scaled snr 4)) e

/-- The RSSI byte (41_commands.md R207): u8 of ROUND(rssi × −2), or ANY_u8 outside 0..255. -/
def rssiByte (p : Params) (rssi : RealValue) (e : Env) : Byte × Env := byteOrAny 0 255 (roundReal p.round (scaled rssi (-2))) e

/-- The timeout of a transmission: floor(toa × 3 / 2) (43_transmit_fsm.md R268). -/
def timeoutOf (toa : Nat) : Nat := toa * Config.timeoutNum / Config.timeoutDen

/-- How many microseconds lie between two values of NOW is compared without subtraction: at least `d` (log 24). -/
def elapsedAtLeast (t since d : Nat) : Bool := decide (since + d ≤ t)

/-- More than `d` microseconds have passed (43_transmit_fsm.md R273, strictly greater). -/
def elapsedExceeds (t since d : Nat) : Bool := decide (since + d < t)

end Sys2Proof.Machine
end

