-- ==== Sys2Proof/Machine/Commands.lean ====
section
/-! DEFINITION. The meaning of each command: its arm of `dispatch` (41_commands.md R180), from the write of RX_CMD on. -/

namespace Sys2Proof.Machine

/-- The two statements every answering command without an override ends in: encode, then request the transmission (41_commands.md R180). -/
def respond (respId : Byte) (payload : List Byte) (s : State) : Flow :=
  (encodeResponse respId payload s).andThen (requestTransmit false)

/-- PING (41_commands.md R185): an empty PONG, whatever data came with it. -/
def execPing (_data : List Byte) (s : State) : Host.Outcome State Fault Refusal :=
  (respond s.par.respPong [] (s.selectCmd .ping)).outcome

/-- RETRANSMIT (41_commands.md R188): the data echoed verbatim. -/
def execRetransmit (data : List Byte) (s : State) : Host.Outcome State Fault Refusal :=
  (respond s.par.respRepeatedMessage data (s.selectCmd .retransmit)).outcome

/-- The part of RETRANSMIT_CUSTOM after its checks (41_commands.md R195): the configuration in force is saved (R200), the override applied,
the tail echoed, and the transmission requested with the override argument. -/
def applyCustom (data : List Byte) (s : State) : Flow :=
  s.curCfg.use s fun cur =>
    (setModem (cfgFromCustom s.par data) { s with restoreCfg := .holds cur, restorePending := true }).andThen fun s1 =>
      (encodeResponse s.par.respRepeatedMessageCustom (echoOf data) s1).andThen (requestTransmit true)

/-- RETRANSMIT_CUSTOM (41_commands.md R195, R197): a failed precondition is a silent skip. -/
def execRetransmitCustom (data : List Byte) (s : State) : Host.Outcome State Fault Refusal :=
  if customAccepted s.par data then (applyCustom data (s.selectCmd .retransmitCustom)).outcome
  else .next (silentEnd .commandPrecondition (s.selectCmd .retransmitCustom))

/-- The reads of the system-info fields `k`, `k + 1`, … (`n` of them), quantized (41_commands.md R205). -/
def readFields (k : Nat) : Nat → State → List Byte × State
  | 0, s => ([], s)
  | n + 1, s =>
    let rest := readFields (k + 1) n (s.call (.readField k s.env.fieldRead) s.env.popFieldRead)
    (Config.fieldQuantizer k s.env.fieldRead.floorMul :: rest.1, rest.2)

/-- `emit Log(SysInfoField(k, b[k]))` for each byte from field `k` on (41_commands.md R205). -/
def logFields (k : Nat) : List Byte → State → State
  | [], s => s
  | b :: bs, s => logFields (k + 1) bs (s.log (.sysInfoField k b))

/-- The state after the bus-voltage read (41_commands.md R205). -/
@[simps!] def callBusVoltage (s : State) : State := s.call (.readBusVoltage s.env.busVoltage) s.env.popBusVoltage

/-- The telemetry bytes `b[0 .. N_SYSINFO − 1]` and the state after their reads (41_commands.md R205; log 20). -/
def telemetry (s : State) : List Byte × State :=
  let rest := readFields 1 (s.par.nSysInfo - 1) (callBusVoltage s)
  ((quantizeVoltage s.par s.env.busVoltage :: rest.1).take s.par.nSysInfo, rest.2)

/-- TRANSMIT_SYSTEM_INFO (41_commands.md R205): every field read, then every byte logged, then the response. -/
def execTransmitSystemInfo (_data : List Byte) (s : State) : Host.Outcome State Fault Refusal :=
  let t := telemetry (s.selectCmd .transmitSystemInfo)
  (respond s.par.respSystemInfo t.1 (logFields 0 t.1 t.2)).outcome

/-- The state after the SNR and RSSI reads, in that order (41_commands.md R207). -/
@[simps!] def callPacketInfo (s : State) : State :=
  let s1 := s.call (.readSnr s.env.snr) s.env.popSnr
  s1.call (.readRssi s1.env.rssi) s1.env.popRssi

/-- The two packet-info bytes and the environment after any ANY_u8 draw (41_commands.md R207); `s` is the state before the reads. -/
def packetInfo (s : State) : List Byte × Env :=
  let b0 := snrByte s.par s.env.snr (callPacketInfo s).env
  let b1 := rssiByte s.par s.env.popSnr.rssi b0.2
  ([b0.1, b1.1], b1.2)

/-- GET_LAST_PACKET_INFO (41_commands.md R207). -/
def execGetLastPacketInfo (_data : List Byte) (s : State) : Host.Outcome State Fault Refusal :=
  let s1 := s.selectCmd .getLastPacketInfo
  let b := packetInfo s1
  (respond s.par.respPacketInfo b.1 ((callPacketInfo s1).withEnv b.2)).outcome

/-- UNKNOWN (41_commands.md R212): logged, silence. -/
def execUnknown (f : Byte) (_data : List Byte) (s : State) : Host.Outcome State Fault Refusal :=
  .next (silentEnd (.unknownFunction f) (s.selectCmd (.unknown f)))

/-- PRIVATE (41_commands.md R214): what the handler answers is sent; with no answer the frame is logged and dropped. -/
def execPrivate (f : Byte) (data : List Byte) (s : State) : Host.Outcome State Fault Refusal :=
  match handlerAnswer s.par.handler f data with
  | none => .next (silentEnd (.privateFrame f) (s.selectCmd (.privateCmd f)))
  | some r => (respond r.1 r.2 (s.selectCmd (.privateCmd f))).outcome

end Sys2Proof.Machine
end

