-- ==== Sys2Proof/Machine/Dispatch.lean ====
section
/-! DEFINITION. `dispatch` (41_commands.md R180): one arm per instruction. -/

namespace Sys2Proof.Machine

def exec (i : Instr) (s : State) : Host.Outcome State Fault Refusal :=
  match i with
  | .ping d => Sys2Proof.Machine.execPing d s
  | .retransmit d => Sys2Proof.Machine.execRetransmit d s
  | .retransmitCustom d => Sys2Proof.Machine.execRetransmitCustom d s
  | .transmitSystemInfo d => Sys2Proof.Machine.execTransmitSystemInfo d s
  | .getLastPacketInfo d => Sys2Proof.Machine.execGetLastPacketInfo d s
  | .unknown f d => Sys2Proof.Machine.execUnknown f d s
  | .privateCmd f d => Sys2Proof.Machine.execPrivate f d s

end Sys2Proof.Machine
end

