-- ==== Sys2Proof/Machine/Transmit.lean ====
section
/-! DEFINITION. The transmit state machine (43_transmit_fsm.md): Preparing, the two sub-steps of Sending, and the exit step. -/

namespace Sys2Proof.Machine

/-- The state after the enable check's call (43_transmit_fsm.md R265). -/
@[simps!] def callEnable (s : State) : State := s.call (.isTransmissionEnabled s.env.enable) s.env.popEnable

/-- Transmission disabled: rejected with no exit sequence (43_transmit_fsm.md R265). -/
@[simps!] def refuseDisabled (s : State) : State :=
  { s with txPendingResult := .holds .txDisabled, txExitNeeded := false, txState := .rejected }

/-- Reception suspended, so that the exit sequence is due (43_transmit_fsm.md R266). -/
@[simps!] def suspendReception (s : State) : State := { detachLine s with txExitNeeded := true }

/-- The modem switch of Preparing (43_transmit_fsm.md R267): without an override the configuration in force is saved and LORA_DEFAULT
applied, even if it is in force already; with an override nothing is touched. -/
def switchForTransmit (s : State) : Flow :=
  if s.txOverride then .run s
  else s.curCfg.use s fun cur =>
    setModem s.par.loraDefault { s with restoreCfg := .holds cur, restorePending := true }

/-- The timeout, asked at the configuration now in force (43_transmit_fsm.md R268; 70_reset_and_hazards.md R403). -/
@[simps!] def enterSending (s : State) : State :=
  { s.call (.getTimeOnAir s.txLen s.env.timeOnAir) s.env.popTimeOnAir with
    txTimeout := .holds (timeoutOf s.env.timeOnAir)
    txStarted := false
    txState := .sending }

/-- The Preparing step (43_transmit_fsm.md R265 to R268). -/
def prepareStep (s : State) : Flow :=
  if s.env.enable then (switchForTransmit (suspendReception (callEnable s))).andThen fun s1 => .run (enterSending s1)
  else .run (refuseDisabled (callEnable s))

/-- The outcome of a transmission is fixed and the exit step is next (10_state.md R43). -/
@[simps] def settleTransmit (r : TxResult) (dest : TxState) (s : State) : State :=
  { s with txPendingResult := .holds r, txState := dest }

/-- Start success: NOW is read once, for both times, and the poll sub-step is next (43_transmit_fsm.md R270). -/
@[simps!] def markStarted (s : State) : State :=
  { s with
    txT0 := .holds s.env.readNow
    txLastBeat := .holds s.env.readNow
    txStarted := true
    env := s.env.popNow }

/-- The start sub-step of Sending (43_transmit_fsm.md R269, R270): a driver error is final, with no retry. -/
def startStep (s : State) : Flow :=
  withBytes (readTransmit s) s fun buf =>
    let s1 := s.call (.startTransmit buf s.txLen s.env.startStatus) s.env.popStartStatus
    if s.env.startStatus = s.par.drvOk then .run (markStarted s1)
    else .run (settleTransmit (.startError s.env.startStatus) .rejected s1)

/-- The heartbeat of a poll at time `t`: issued when HB_PERIOD has passed since the last one (43_transmit_fsm.md R272). -/
def pollHeartbeat (t last : Nat) (s : State) : State :=
  if elapsedAtLeast t last s.par.hbPeriod then { s.call .heartbeat s.env with txLastBeat := .holds t } else s

/-- The poll sub-step of Sending (43_transmit_fsm.md R271): completion first, without reading NOW (R274), then the heartbeat, then the
timeout (R273). -/
def pollStep (s : State) : Flow :=
  let s1 := s.withEnv s.env.popTxDone
  if s.env.txDone then .run (settleTransmit .ok .done s1)
  else
    let t := s1.env.readNow
    let s2 := s1.withEnv s1.env.popNow
    s2.txLastBeat.use s2 fun last =>
      let s3 := pollHeartbeat t last s2
      s3.txT0.use s3 fun t0 =>
        s3.txTimeout.use s3 fun timeout =>
          if elapsedExceeds t t0 timeout then .run (settleTransmit .txTimeout .timedOut s3) else .run s3

/-- `setModem(RESTORE_CFG); RESTORE_PENDING <- 0` (43_transmit_fsm.md R290; 41_commands.md R182). -/
def restoreModem (s : State) : Flow :=
  s.restoreCfg.use s fun cfg => (setModem cfg s).andThen fun s1 => .run { s1 with restorePending := false }

/-- The mandatory restore sequence, due when Preparing suspended reception (43_transmit_fsm.md R290). -/
def exitSequence (s : State) : Flow :=
  if s.txExitNeeded then
    let s1 := s.call .standby s.env
    (if s1.restorePending then restoreModem s1 else .run s1).andThen fun s2 => .run (attachLine s2)
  else .run s

/-- Where SEQ_PHASE goes when a transmission has ended (43_transmit_fsm.md R290). -/
def phaseAfterTransmit : SeqPhase → SeqPhase
  | .rxTx => .rxPost
  | .extTx => .idle
  | p => p

/-- The exit step of Done, TimedOut and Rejected (43_transmit_fsm.md R290). -/
def exitStep (s : State) : Flow :=
  (exitSequence s).andThen fun s1 =>
    s1.txPendingResult.use s1 fun r =>
      .run { s1 with txResult := .holds r, txState := .idle, seqPhase := phaseAfterTransmit s1.seqPhase }

/-- The FSM step TXSTATE selects (43_transmit_fsm.md R261); Idle and Halted have none. -/
def transmitStep (s : State) : Flow :=
  match s.txState with
  | .idle => .run s
  | .preparing => prepareStep s
  | .sending => if s.txStarted then pollStep s else startStep s
  | .done => exitStep s
  | .timedOut => exitStep s
  | .rejected => exitStep s
  | .halted => .run s

end Sys2Proof.Machine
end

