-- ==== Sys2Proof/Machine/Receive.lean ====
section
/-! DEFINITION. The steps of the receive service around the dispatcher (40_codec.md R160; 41_commands.md R182), and the loading of a frame. -/

namespace Sys2Proof.Machine

/-- RxPoll is enabled: a frame is waiting and no transmission is under way (40_codec.md R160). -/
def frameWaiting (s : State) : Bool := s.dataRx && decide (s.txState = .idle)

/-- RxPoll (40_codec.md R160); with no frame waiting the sequencer is idle (60_exceptions.md R363). -/
def rxPoll (s : State) : State := if frameWaiting s then { s with seqPhase := .rxAck } else s

/-- RxAck (40_codec.md R160, R161). -/
@[simps!] def rxAck (s : State) : State := { openBracket s with dataRx := false, seqPhase := .rxDecode }

/-- The link-statistics call of a decode attempt (40_codec.md R162). -/
@[simps!] def countFrame (modem : ModemType) (valid : Bool) (s : State) : State := s.call (.incrementFrameCounter modem valid) s.env

/-- Step 1 of `decodeHeader` (40_codec.md R141): identifier bytes `i`, `i + 1`, … (`n` of them) compared one by one, each tested against
RXLEN before it is read. -/
def compareIdentifier (i : Nat) : Nat → State → Except Fault Bool
  | 0, _ => .ok true
  | n + 1, s =>
    if s.rxLen ≤ i then .ok false
    else do
      let r ← memReadByte .rx i s
      let c ← memReadByte .ids i s
      if r = c then compareIdentifier (i + 1) n s else .ok false

/-- Steps 2 and 3 of `decodeHeader` (40_codec.md R141), once the identifier has matched: the header's two bytes and the declared length. -/
def readLengths (idLen : Nat) (s : State) : Except Fault (Except DecodeError Header) :=
  if s.rxLen < idLen + 2 then .ok (.error .malformedLength)
  else do
    let f ← memReadByte .rx idLen s
    let n ← memReadByte .rx (idLen + 1) s
    if Config.optMax < n.toNat then .ok (.error .malformedLength)
    else if s.rxLen < frameLength idLen n.toNat then .ok (.error .malformedLength)
    else .ok (.ok { functionId := f, dataLength := n.toNat, dataOffset := idLen + 2 })

/-- `decodeHeader` (40_codec.md R141) on the block's own spaces: every byte it looks at is a MemRead, and no other byte is read. -/
def readHeader (s : State) : Except Fault (Except DecodeError Header) :=
  s.idLen.read.bind fun idLen => do
    if ← compareIdentifier 0 (idLen - 1) s then readLengths idLen s else .ok (.error .identifierMismatch)

/-- `extractOptionalData(off, n)` (40_codec.md R147), with its CodecBounds for a length over 128 and for bytes not received. -/
def extractOptionalData (off n : Nat) (s : State) : Except Fault (List Byte) :=
  if Config.optMax < n then .error .codecBounds else memRead .rx off n s

/-- What RxDecode does with a header that decoded (40_codec.md R160): the data are extracted and the instruction executed. -/
def dispatchFrame (h : Header) (s : State) : Host.Outcome State Fault Refusal :=
  match extractOptionalData h.dataOffset h.dataLength s with
  | .error f => .next (s.raise f)
  | .ok d => exec ((selectCommand s.par h.functionId).toInstr d) s

/-- RxDecode (40_codec.md R160): the header is decoded, the attempt counted under the current modem, and the error logged or the frame
dispatched (R163). -/
def rxDecode (s : State) : Host.Outcome State Fault Refusal :=
  match readHeader s, s.curCfg.read with
  | .error f, _ => .next (s.raise f)
  | .ok _, .error f => .next (s.raise f)
  | .ok (.error e), .ok cfg => .next (silentEnd (decodeErrorLog e) (countFrame cfg.modemType false s))
  | .ok (.ok h), .ok cfg => dispatchFrame h (countFrame cfg.modemType true s)

/-- RxPost restores the modem after an override whose transmission was refused (41_commands.md R182). -/
def refusedOverride (c : Command) (r : TxResult) (s : State) : Bool :=
  decide (c = .retransmitCustom) && decide (r = .txDisabled) && s.restorePending

/-- RxPost (41_commands.md R182). -/
def rxPost (s : State) : Flow :=
  s.rxCmd.use s fun c =>
    s.txResult.use s fun r =>
      (if refusedOverride c r s then restoreModem s else .run s).andThen fun s1 => .run { logResult r s1 with seqPhase := .rxEnd }

/-- RxEnd (40_codec.md R160, R161). -/
def rxEnd (s : State) : Flow := s.intSave.use s fun b => .run { s with intEn := b, seqPhase := .idle }

/-- The identifier a loaded frame carries: the configured one, or the reference identifier before boot (log 18). -/
def loadedId (s : State) : List Byte :=
  match readId s with
  | .ok id => id
  | .error _ => Config.referenceId

/-- A frame loaded where RxDecode reads it, with everything that step needs: the identifier and the configuration that boot would have
written, where they are unwritten, and SEQ's turn (log 18). -/
def loadFrame (bytes : List Byte) (s : State) : State :=
  let id := loadedId s
  { s with
    env := { s.env with schedule := .seq :: s.env.schedule }
    idBuf := match readId s with
      | .ok _ => s.idBuf
      | .error _ => Memory.write [] 0 id
    idLen := .holds id.length
    rxBuf := Memory.write [] 0 (id ++ bytes)
    rxLen := (id ++ bytes).length
    curCfg := match s.curCfg with
      | .holds cfg => .holds cfg
      | .unwritten _ => .holds (staticTable s.par s.par.bootModem)
    intSave := match s.intSave with
      | .holds b => .holds b
      | .unwritten _ => .holds s.intEn
    txState := .idle
    seqPhase := .rxDecode
    fault := [] }

end Sys2Proof.Machine
end

