-- ==== Sys2Proof/Machine/Sequencer.lean ====
section
/-! DEFINITION. The boot step, the step SEQ takes in each phase, and the moves of ENV (10_state.md R61, R64). -/

namespace Sys2Proof.Machine

/-- The `getCallsign` answer keeps the host duty of 10_state.md R64; the free answer keeps it by its type (log 9). -/
def callsignKept (e : Env) : Bool :=
  match e.callsigns with
  | [] => true
  | a :: _ => decide (1 ≤ a.2) && decide (a.2 ≤ Config.idMax) && decide (a.2 ≤ a.1.length)

/-- `getCallsign` and the identifier registers (70_reset_and_hazards.md R385): bytes past the length are dropped. -/
@[simps!] def loadCallsign (s : State) : State :=
  { s.call (.getCallsign s.env.callsign.1 s.env.callsign.2) s.env.popCallsign with
    idLen := .holds s.env.callsign.2
    idBuf := Memory.write [] 0 (s.env.callsign.1.take s.env.callsign.2) }

/-- The boot step (70_reset_and_hazards.md R385): identifier, modem, receive line, then interrupts. -/
def bootStep (s : State) : Host.Outcome State Fault Refusal :=
  if callsignKept s.env then
    ((setModem (staticTable s.par s.par.bootModem) (loadCallsign s)).andThen fun s1 =>
      .run { attachLine s1 with intEn := true, seqPhase := .idle }).outcome
  else .refused .callsignOutOfRange

/-- SEQ's step in each phase (10_state.md R44). With no step enabled it changes nothing (60_exceptions.md R341, R363; log 12). -/
def phaseStep (s : State) : Host.Outcome State Fault Refusal :=
  match s.seqPhase with
  | .boot => bootStep s
  | .idle => .next (rxPoll s)
  | .rxAck => .next (rxAck s)
  | .rxDecode => rxDecode s
  | .rxTx => (transmitStep s).outcome
  | .rxPost => (rxPost s).outcome
  | .rxEnd => (rxEnd s).outcome
  | .extTx => (transmitStep s).outcome
  | .halted => .next s

/-- SEQ's turn: in a fault state it takes no step, and the outcome is the first fault recorded (60_exceptions.md R322; log 10). -/
def seqStep (s : State) : Host.Outcome State Fault Refusal :=
  match s.fault with
  | [] => phaseStep s
  | f :: _ => .fault f

/-- RX_DELIVER (10_state.md R61): the buffer is written whole (20_memory.md R70, R79; log 13), then the receive-ready event. -/
def deliver (bytes : List Byte) (s : State) : Host.Outcome State Fault Refusal :=
  if Config.frameMax < bytes.length then .refused .deliveryTooLong
  else .next (receiveReady { s with rxBuf := Memory.write [] 0 bytes, rxLen := bytes.length })

/-- TX_REQ (43_transmit_fsm.md R262), accepted in SEQ_PHASE = Idle only (log 15). -/
def txRequest (bytes : List Byte) (ov : Bool) (s : State) : Host.Outcome State Fault Refusal :=
  match s.fault with
  | f :: _ => .fault f
  | [] =>
    if s.seqPhase = .idle ∧ bytes.length ≤ Config.frameMax then
      if s.txState = .idle then
        ((storeTransmit bytes s).andThen fun s1 =>
          .run { s1 with txOverride := ov, txState := .preparing, seqPhase := .extTx }).outcome
      else .next (s.raise .txReentry)
    else .refused .txReqNotAccepted

/-- MODEM_REQ (42_link_manager.md R239), accepted in SEQ_PHASE = TXSTATE = Idle only and for the two static tables only
(70_reset_and_hazards.md R396); SEQ performs it, and does not validate it (log 9, log 15). -/
def modemRequest (cfg : ModemConfig) (s : State) : Host.Outcome State Fault Refusal :=
  match s.fault with
  | f :: _ => .fault f
  | [] =>
    if s.seqPhase = .idle ∧ s.txState = .idle then
      if cfg = s.par.loraDefault ∨ cfg = s.par.fskDefault then (setModem cfg s).outcome
      else .refused .modemReqNotATable
    else .refused .modemReqNotAccepted

/-- A move of ENV (10_state.md R61, R64). -/
def portStep (e : PortEvent) (s : State) : Host.Outcome State Fault Refusal :=
  match e with
  | .rxDeliver bytes => deliver bytes s
  | .tmrEvent => .next (isrTmr s)
  | .txReq bytes ov => txRequest bytes ov s
  | .modemReq cfg => modemRequest cfg s
  | .setIntEn b => if inBracket s then .refused .intEnWriteInBracket else .next { s with intEn := b }
  | .clearSwitchModem => .next { s with switchModem := false }
  | .reset => .next (resetBlock s)

/-- Whose turn it is, and the state with that turn taken off the schedule (00_scope.md R8; log 6). -/
def nextTurn (s : State) : Turn × State :=
  match s.env.schedule with
  | [] => (.seq, s)
  | t :: ts => (t, { s with env := { s.env with schedule := ts } })

/-- The agents that take a step in a turn (00_scope.md R7; 92_eei_decisions.md D46): the receive handler runs inside the delivery while the line
is attached, a timer event is the timer handler's step, and SEQ performs a modem request (10_state.md R61). That SEQ takes part in a transmit
request too is DEDUCED, log 29: 43_transmit_fsm.md R284 and 60_exceptions.md R341 count it as SEQ's work, 10_state.md R49 gives ENV the write of TXBUF. -/
def Turn.agents (s : State) : Turn → List Agent
  | .seq => [.seq]
  | .port (.rxDeliver _) => if s.rxLineEn then [.env, .isrRx] else [.env]
  | .port .tmrEvent => [.env, .isrTmr]
  | .port (.txReq _ _) => [.env, .seq]
  | .port (.modemReq _) => [.env, .seq]
  | .port (.setIntEn _) => [.env]
  | .port .clearSwitchModem => [.env]
  | .port .reset => [.env]

/-- SEQ has a step (10_state.md R44; 40_codec.md R160): not in a fault state (60_exceptions.md R322), not in Halted (R341), and in Idle only when
a frame waits. -/
def seqEnabled (s : State) : Bool :=
  s.fault.isEmpty && match s.seqPhase with
    | .idle => frameWaiting s
    | .halted => false
    | _ => true

/-- The step of the agent whose turn it is. -/
def turnStep (t : Turn) (s : State) : Host.Outcome State Fault Refusal :=
  match t with
  | .seq => seqStep s
  | .port e => portStep e s

end Sys2Proof.Machine
end

