-- ==== Sys2Proof/Machine/Step.lean ====
section
/-! DEFINITION. One step of the machine, and the placing of an opcode-table word where RxDecode reads it. -/

namespace Sys2Proof.Machine

/-- One atomic step of one agent (00_scope.md R6, R8). -/
def step (s : State) : Host.Outcome State Fault Refusal := turnStep (nextTurn s).1 (nextTurn s).2

/-- The state whose next step runs exactly the frame that carries the table word (log 18). -/
def State.withFetchWord (s : State) (nbits w : Nat) : State := loadFrame (wordBytes nbits w) s

end Sys2Proof.Machine
end

