-- ==== Sys2Proof/Safety.lean ====
section
/-! DEFINITION. What counts as a safe run: the invariant under which no model fault is ever recorded (60_exceptions.md R322), the restore
discipline of the receive path (43_transmit_fsm.md R290), and the words the statements are written in. -/

namespace Sys2Proof.Machine

/-- SEQ's turn in a state without faults: `s0` is the state with the turn taken off the schedule. -/
def SeqTurn (s s0 : State) : Prop := nextTurn s = (.seq, s0) ∧ s0.fault = []

/-- ENV's turn with the move `e`. -/
def PortTurn (s : State) (e : PortEvent) (s0 : State) : Prop := nextTurn s = (.port e, s0)

/-- SEQ's turn with the transmit FSM in the state `x` (43_transmit_fsm.md R261). -/
def TxTurn (s : State) (x : TxState) (s0 : State) : Prop :=
  SeqTurn s s0 ∧ (s0.seqPhase = .rxTx ∨ s0.seqPhase = .extTx) ∧ s0.txState = x

/-- The events a step has added to TRACE. -/
def newEvents (s t : State) : List Event := t.trace.drop s.trace.length

/-- A transmission of the frame `id ++ [r] ++ [len(d)] ++ d` has been requested (30_encoding.md R103; 41_commands.md R183). -/
def Sends (t : State) (id : List Byte) (r : Byte) (d : List Byte) (ov : Bool) : Prop :=
  readTransmit t = .ok (frame id r d) ∧ t.txLen = frameLength id.length d.length ∧ t.txOverride = ov
    ∧ t.txState = .preparing ∧ t.seqPhase = .rxTx

/-- What a response `r`, `d` may do to TXBUF and TXLEN: nothing, or its frame is stored from offset 0 and every byte above the frame is as
before (40_codec.md R152). -/
def StoresFrame (s t : State) (r : Byte) (d : List Byte) : Prop :=
  (t.txBuf = s.txBuf ∧ t.txLen = s.txLen)
    ∨ ∃ id, readId s = .ok id ∧ t.txLen = frameLength id.length d.length ∧ readTransmit t = .ok (frame id r d)
      ∧ ∀ a, frameLength id.length d.length ≤ a → t.txBuf.byte a = s.txBuf.byte a

/-! ## Runs and their fairness (00_scope.md R8, R9) -/

/-- The next step of an agent is enabled. ENV's always is, because it may deliver a frame at any time (10_state.md R61). A handler's step is part
of the port event that invokes it and no event waits for it (92_eei_decisions.md D46), so it is never enabled between two steps. DEDUCED,
log 29. -/
def Agent.enabled (s : State) : Agent → Prop
  | .seq => seqEnabled s = true
  | .isrRx => False
  | .isrTmr => False
  | .env => True

/-- An agent takes part in the next step. -/
def Agent.moves (s : State) (a : Agent) : Prop := a ∈ (nextTurn s).1.agents (nextTurn s).2

/-- ENV has written its script anew, schedule and answers alike, and NOW has not decreased (10_state.md R62): the block itself is as before.
DESIGN CHOICE, log 29. -/
def Rescripted (s t : State) : Prop := t = { s with env := t.env } ∧ s.env.now ≤ t.env.now

/-- An infinite run with the two fairness assumptions of 00_scope.md R9: `u n` is the state `r n` as ENV has scripted it, and the step from `u n`
leads to `r (n + 1)`. Log 29. -/
structure FairRun (r u : Nat → State) : Prop where
  /-- ENV writes its script before every step. -/
  scripted : ∀ n, Rescripted (r n) (u n)
  /-- Every step answers the next state. -/
  steps : ∀ n, step (u n) = .next (r (n + 1))
  /-- R9 (a): an agent whose step stays enabled takes it eventually. -/
  weaklyFair : ∀ (a : Agent) (n : Nat), (∀ m, n ≤ m → a.enabled (u m)) → ∃ m, n ≤ m ∧ a.moves (u m)
  /-- R9 (b): NOW grows without bound. -/
  timeGrows : ∀ b : Nat, ∃ n, b ≤ (u n).env.now

/-! ## The words of the statements -/

/-- The edges of the transmit FSM (43_transmit_fsm.md R261), with the fatal entry of 60_exceptions.md R340 from Idle, Preparing and the exit
step, and RESET. -/
def TxEdge : TxState → TxState → Prop
  | .idle, y => y = .idle ∨ y = .preparing ∨ y = .halted
  | .preparing, y => y = .preparing ∨ y = .rejected ∨ y = .sending ∨ y = .halted
  | .sending, y => y = .sending ∨ y = .rejected ∨ y = .done ∨ y = .timedOut
  | .done, y => y = .done ∨ y = .idle ∨ y = .halted
  | .timedOut, y => y = .timedOut ∨ y = .idle ∨ y = .halted
  | .rejected, y => y = .rejected ∨ y = .idle ∨ y = .halted
  | .halted, y => y = .halted

/-- A heartbeat event. -/
def Event.isHeartbeat : Event → Bool
  | .call .watchdog .heartbeat => true
  | _ => false

/-- A link-statistics event. -/
def Event.isCounter : Event → Bool
  | .call .storage (.incrementFrameCounter _ _) => true
  | _ => false

/-- The identifier is loaded, readable, and no longer than ID_MAX (10_state.md R31). -/
def IdReady (s : State) (id : List Byte) : Prop := readId s = .ok id ∧ id.length ≤ Config.idMax

/-- SEQ_PHASE has left Boot for good: the boot step has loaded the identifier and the modem (70_reset_and_hazards.md R386). -/
def SeqPhase.isBooted : SeqPhase → Bool
  | .boot => false
  | .halted => false
  | _ => true

/-- The phases in which TXSTATE is not Idle (43_transmit_fsm.md R262). -/
def SeqPhase.isTransmitting : SeqPhase → Bool
  | .rxTx => true
  | .extTx => true
  | .halted => true
  | _ => false

/-- The phases between RxAck and RxEnd, which hold the interrupt bracket (40_codec.md R161). -/
def SeqPhase.isBracketed : SeqPhase → Bool
  | .rxDecode => true
  | .rxTx => true
  | .rxPost => true
  | .rxEnd => true
  | _ => false

/-- The transmit states whose one step is the exit step (43_transmit_fsm.md R290). -/
def TxState.isExiting : TxState → Bool
  | .done => true
  | .timedOut => true
  | .rejected => true
  | _ => false

/-- A register holding a time that NOW has reached (10_state.md R62). -/
def Reg.isPast (r : Reg Nat) (now : Nat) : Prop := ∃ t, r = .holds t ∧ t ≤ now

/-- The invariant of every reachable state (10_state.md R48; 60_exceptions.md R322: "No rule of this spec reaches any of these faults from a
state the rules produce"). -/
structure Invariant (s : State) : Prop where
  /-- The binding meets its constraints (30_encoding.md R111). -/
  params : s.par.wf = true
  /-- No model fault has been recorded. -/
  noFault : s.fault = []
  /-- The byte spaces are canonical. -/
  canonical : Memory.wf s.rxBuf ∧ Memory.wf s.txBuf ∧ Memory.wf s.idBuf
  /-- RXLEN bytes of RXBUF are valid (10_state.md R32). -/
  received : s.rxLen ≤ Config.frameMax ∧ (s.rxBuf.read 0 s.rxLen).isSome
  /-- TXLEN bytes of TXBUF are valid (10_state.md R33). -/
  toSend : s.txLen ≤ Config.frameMax ∧ (s.txBuf.read 0 s.txLen).isSome
  /-- A loaded identifier is 1 to 32 readable bytes (10_state.md R31). -/
  identifier : ∀ n, s.idLen = .holds n → 1 ≤ n ∧ n ≤ Config.idMax ∧ (s.idBuf.read 0 n).isSome
  /-- After boot the identifier and the modem configuration are written (70_reset_and_hazards.md R386). -/
  booted : s.seqPhase.isBooted = true → s.idLen.isWritten = true ∧ s.curCfg.isWritten = true
  /-- TXSTATE is not Idle exactly in RxTx, ExtTx and Halted (43_transmit_fsm.md R262). -/
  fsm : s.txState ≠ .idle ↔ s.seqPhase.isTransmitting = true
  /-- The FSM and the sequencer halt together (60_exceptions.md R340). -/
  halted : s.txState = .halted ↔ s.seqPhase = .halted
  /-- The timeout is written before Sending reads it (10_state.md R43). -/
  timeout : s.txState = .sending → s.txTimeout.isWritten = true
  /-- Both times are written before the poll sub-step reads them, and NOW has reached them. -/
  started : s.txState = .sending → s.txStarted = true → s.txT0.isPast s.env.now ∧ s.txLastBeat.isPast s.env.now
  /-- A transmission that has ended has its outcome. -/
  settled : s.txState.isExiting = true → s.txPendingResult.isWritten = true
  /-- A pending restore has its configuration (10_state.md R42). -/
  restorable : s.restorePending = true → s.restoreCfg.isWritten = true
  /-- The bracket is held from RxAck to RxEnd (40_codec.md R161). -/
  bracket : s.seqPhase.isBracketed = true → s.intEn = false ∧ s.intSave.isWritten = true
  /-- RX_CMD is written before RxPost reads it (41_commands.md R181). -/
  command : s.seqPhase = .rxTx ∨ s.seqPhase = .rxPost → s.rxCmd.isWritten = true
  /-- TX_RESULT is written before RxPost reads it. -/
  result : s.seqPhase = .rxPost → s.txResult.isWritten = true

/-- The restore discipline (10_state.md R42; 41_commands.md R182; 43_transmit_fsm.md R290, R291): outside a transmission the receive line is
attached, and a restore is pending only on the way to the step that makes it. -/
structure ReceiveReady (s : State) : Prop where
  /-- No restore is pending outside a transmission and RxPost. -/
  settledRestore : s.seqPhase.isTransmitting = false → s.seqPhase ≠ .rxPost → s.restorePending = false
  /-- The line is attached after boot, outside a transmission. -/
  attached : s.seqPhase.isBooted = true → s.txState = .idle → s.rxLineEn = true
  /-- Preparing starts with the line attached. -/
  preparingAttached : s.txState = .preparing → s.rxLineEn = true
  /-- In Preparing a restore is pending only for an override of the receive service. -/
  preparingPending : s.txState = .preparing → s.restorePending = true → s.seqPhase = .rxTx ∧ s.rxCmd = .holds .retransmitCustom
  /-- Once Sending is entered the exit sequence is due. -/
  exitDue : s.txState = .sending ∨ s.txState = .done ∨ s.txState = .timedOut → s.txExitNeeded = true
  /-- A rejection with no exit sequence due is TxDisabled, with the line still attached. -/
  disabled : s.txState = .rejected → s.txExitNeeded = false →
    s.rxLineEn = true ∧ s.txPendingResult = .holds .txDisabled
      ∧ (s.restorePending = true → s.seqPhase = .rxTx ∧ s.rxCmd = .holds .retransmitCustom)
  /-- A restore still pending in RxPost is the one RxPost makes. -/
  postPending : s.seqPhase = .rxPost → s.restorePending = true → s.rxCmd = .holds .retransmitCustom ∧ s.txResult = .holds .txDisabled

end Sys2Proof.Machine
end

