-- ==== Sys2Proof/Certificates/Slice0/Obligations.lean ====
section
/-! DEFINITION. The statements for the provers, one `def Obligations.<Name> : Prop` each, from the numbered rules of spec/. -/

open Sys2Proof Sys2Proof.Machine

/-! ## The frame codec -/

/-- Frames written out from 30_encoding.md R101 with the identifiers of 92_eei_decisions.md D40 decode to the instructions they stand for. -/
def Obligations.WrittenFramesDecode : Prop :=
  let dec := decode Params.reference Config.referenceId
  dec [0x41, 0x42, 0x43, 0x44, 0x45, 0x00, 0x00] = .ok (.ping [])
    ∧ dec [0x41, 0x42, 0x43, 0x44, 0x45, 0x01, 0x02, 0xAA, 0xBB] = .ok (.retransmit [0xAA, 0xBB])
    ∧ dec [0x41, 0x42, 0x43, 0x44, 0x45, 0x02, 0x01, 0x04] = .ok (.retransmitCustom [0x04])
    ∧ dec [0x41, 0x42, 0x43, 0x44, 0x45, 0x03, 0x00] = .ok (.transmitSystemInfo [])
    ∧ dec [0x41, 0x42, 0x43, 0x44, 0x45, 0x04, 0x00] = .ok (.getLastPacketInfo [])
    ∧ dec [0x41, 0x42, 0x43, 0x44, 0x45, 0x07, 0x00] = .ok (.unknown 0x07 [])
    ∧ dec [0x41, 0x42, 0x43, 0x44, 0x45, 0x80, 0x02, 0xDE, 0xAD] = .ok (.privateCmd 0x80 [0xDE, 0xAD])

/-- Decode and encode agree: every well-formed instruction, under every legal binding and identifier, is what its frame decodes to. -/
def Obligations.DecodeOfEncode : Prop :=
  ∀ (p : Params) (id : List Byte) (i : Instr), p.wf = true → identifierFits id = true → i.wf p = true →
    decode p id (encode p id i) = .ok i

/-- 40_codec.md R153: a frame delivered whole is received whole, decodeHeader on the block's own buffers gives its own fields and
extractOptionalData its data, also when the last identifier byte is any value; and so do the decoder's functions on byte strings. -/
def Obligations.DeliveredFrameRoundTrip : Prop :=
  ∀ (id wireId d : List Byte) (f : Byte) (s : State),
    identifierFits id = true → d.length ≤ Config.optMax → wireId.length = id.length → comparedId wireId = comparedId id →
    (∃ t, portStep (.rxDeliver (frame wireId f d)) s = .next t ∧ readReceived t = .ok (frame wireId f d)
        ∧ (readId s = .ok id → readHeader t = .ok (.ok ⟨f, d.length, id.length + 2⟩))
        ∧ extractOptionalData (id.length + 2) d.length t = .ok d)
      ∧ decodeHeader id (frame wireId f d) = .ok ⟨f, d.length, id.length + 2⟩
      ∧ optionalDataOf (frame wireId f d) ⟨f, d.length, id.length + 2⟩ = d

/-- 40_codec.md R142: IdentifierMismatch exactly when some compared byte was not received or differs, and then there is no instruction. -/
def Obligations.IdentifierMismatchExactly : Prop :=
  ∀ (p : Params) (id rx : List Byte),
    (decodeHeader id rx = .error .identifierMismatch ↔ ∃ i, i < id.length - 1 ∧ (rx.length ≤ i ∨ rx[i]? ≠ id[i]?))
      ∧ (decodeHeader id rx = .error .identifierMismatch → decode p id rx = .error .identifierMismatch)

/-- 40_codec.md R143, R144: with a matching prefix, MalformedLength exactly when the header is cut short, the declared length exceeds 128,
or the declared frame exceeds the bytes received. -/
def Obligations.MalformedLengthExactly : Prop :=
  ∀ (id rx : List Byte), comparedId id <+: rx →
    (decodeHeader id rx = .error .malformedLength ↔
      rx.length < id.length + 2
        ∨ 128 < (rx.getD (id.length + 1) 0).toNat
        ∨ rx.length < id.length + 2 + (rx.getD (id.length + 1) 0).toNat)

/-- 40_codec.md R145: bytes received beyond the declared frame are ignored. -/
def Obligations.TrailingBytesIgnored : Prop :=
  ∀ (p : Params) (id rx extra : List Byte) (i : Instr), decode p id rx = .ok i → decode p id (rx ++ extra) = .ok i

/-- 40_codec.md R154: for a fixed identifier, encodeResponse is injective in the response identifier and the data: the identifier is byte
ID_LEN of the frame, the length byte ID_LEN + 1, and the data follow. -/
def Obligations.EncodeResponseInjective : Prop :=
  (∀ (s t : State) (id d : List Byte) (r : Byte), readId s = .ok id → encodeResponse r d s = .run t →
      memRead .tx id.length 1 t = .ok [r] ∧ memRead .tx (id.length + 1) 1 t = .ok [BitVec.ofNat 8 d.length]
        ∧ memRead .tx (id.length + 2) d.length t = .ok d)
    ∧ ∀ (s t t' : State) (r r' : Byte) (d d' : List Byte),
      encodeResponse r d s = .run t → encodeResponse r' d' s = .run t' → readTransmit t = readTransmit t' → r = r' ∧ d = d'

/-- 30_encoding.md R110, R111: every public command identifier selects its command, every other public identifier is UNKNOWN, and every
identifier from PRIVATE_OFFSET up is PRIVATE. -/
def Obligations.SelectionFollowsTheMap : Prop :=
  ∀ p : Params, p.wf = true →
    selectCommand p p.cmdPing = .ping
      ∧ selectCommand p p.cmdRetransmit = .retransmit
      ∧ selectCommand p p.cmdRetransmitCustom = .retransmitCustom
      ∧ selectCommand p p.cmdTransmitSystemInfo = .transmitSystemInfo
      ∧ selectCommand p p.cmdGetLastPacketInfo = .getLastPacketInfo
      ∧ (∀ f, f < p.privateOffset → f ∉ p.commandIds → selectCommand p f = .unknown f)
      ∧ (∀ f, p.privateOffset ≤ f → selectCommand p f = .privateCmd f)

/-- 20_memory.md R72, R73, 40_codec.md R147, R152 and 00_scope.md R15: a read past a space's bound is CodecBounds, and so are an extraction of
over 128 bytes or past RXLEN, a write past 162 bytes of TX and a payload over 128 bytes, which leave everything but FAULT as it was. A write
within the bound stores its bytes and leaves every other byte and register as it was. -/
def Obligations.BoundsAreFaults : Prop :=
  (∀ (s : State) (off n : Nat), s.rxLen < off + n → memRead .rx off n s = .error .codecBounds)
    ∧ (∀ (s : State) (off n : Nat), s.txLen < off + n → memRead .tx off n s = .error .codecBounds)
    ∧ (∀ (s : State) (off n k : Nat), s.idLen = .holds k → k < off + n → memRead .ids off n s = .error .codecBounds)
    ∧ (∀ (s : State) (off n : Nat), (128 < n ∨ s.rxLen < off + n) → extractOptionalData off n s = .error .codecBounds)
    ∧ (∀ (s : State) (off : Nat) (bs : List Byte), 162 < off + bs.length →
        (memWrite .tx off bs s).state = { s with fault := (memWrite .tx off bs s).state.fault }
          ∧ Fault.codecBounds ∈ (memWrite .tx off bs s).state.fault)
    ∧ (∀ (s : State) (off : Nat) (bs : List Byte), off + bs.length ≤ 162 →
        ∃ t, memWrite .tx off bs s = .run t ∧ t = { s with txBuf := t.txBuf }
          ∧ (∀ i, i < bs.length → t.txBuf.byte (off + i) = bs[i]?)
          ∧ ∀ a, (a < off ∨ off + bs.length ≤ a) → t.txBuf.byte a = s.txBuf.byte a)
    ∧ (∀ (s : State) (r : Byte) (d : List Byte), 128 < d.length →
        (encodeResponse r d s).state = { s with fault := (encodeResponse r d s).state.fault }
          ∧ Fault.codecBounds ∈ (encodeResponse r d s).state.fault)

/-! ## The receive service around an instruction -/

/-- A SEQ turn in RxDecode whose received bytes decode to an instruction counts the frame as valid and executes exactly that instruction. -/
def Obligations.StepRunsDecodedInstruction : Prop :=
  ∀ (s s0 : State) (id rx : List Byte) (cfg : ModemConfig) (i : Instr),
    SeqTurn s s0 → s0.seqPhase = .rxDecode → readId s0 = .ok id → readReceived s0 = .ok rx → s0.curCfg = .holds cfg →
    decode s0.par id rx = .ok i →
    step s = exec i { s0 with trace := s0.trace ++ [.call .storage (.incrementFrameCounter cfg.modemType true)] }

/-- 40_codec.md R163: a decode error ends in RxEnd with no write other than the counter call and the log event. -/
def Obligations.DecodeErrorIsSilent : Prop :=
  ∀ (s s0 : State) (id rx : List Byte) (cfg : ModemConfig) (e : DecodeError),
    SeqTurn s s0 → s0.seqPhase = .rxDecode → readId s0 = .ok id → readReceived s0 = .ok rx → s0.curCfg = .holds cfg →
    decode s0.par id rx = .error e →
    step s = .next
      { s0 with
        trace := s0.trace ++ [.call .storage (.incrementFrameCounter cfg.modemType false), .log (decodeErrorLog e)]
        seqPhase := .rxEnd }

/-- 40_codec.md R162: every RxDecode step issues exactly one incrementFrameCounter, with the current modem, valid exactly when the header
decoded, whatever command follows. -/
def Obligations.EveryDecodeIsCountedOnce : Prop :=
  ∀ (s s0 t : State) (id rx : List Byte) (cfg : ModemConfig),
    SeqTurn s s0 → s0.seqPhase = .rxDecode → readId s0 = .ok id → readReceived s0 = .ok rx → s0.curCfg = .holds cfg →
    step s = .next t →
    (newEvents s t).filter Event.isCounter
      = [.call .storage (.incrementFrameCounter cfg.modemType (decodeHeader id rx).isOk)]

/-- 40_codec.md R160, R161: RxPoll takes a waiting frame and writes only SEQ_PHASE, RxAck saves INT_EN and clears it and DATA_RX, RxEnd
puts INT_EN back. -/
def Obligations.ReceiveServiceBracket : Prop :=
  (∀ s s0 : State, SeqTurn s s0 → s0.seqPhase = .idle → s0.dataRx = true → s0.txState = .idle →
      step s = .next { s0 with seqPhase := .rxAck })
    ∧ (∀ s s0 : State, SeqTurn s s0 → s0.seqPhase = .rxAck →
      step s = .next { s0 with intSave := .holds s0.intEn, intEn := false, dataRx := false, seqPhase := .rxDecode })
    ∧ (∀ (s s0 : State) (b : Bool), SeqTurn s s0 → s0.seqPhase = .rxEnd → s0.intSave = .holds b →
      step s = .next { s0 with intEn := b, seqPhase := .idle })

/-- 41_commands.md R182: RxPost without a refused override logs a result other than Ok and goes on to RxEnd; after a refused override it first
puts RESTORE_CFG back, and a restore the driver refuses is the fatal entry of 60_exceptions.md R340, with RESTORE_PENDING and CUR_CFG kept. -/
def Obligations.PostLogsAndRestores : Prop :=
  (∀ (s s0 : State) (c : Command) (r : TxResult), SeqTurn s s0 → s0.seqPhase = .rxPost → s0.rxCmd = .holds c → s0.txResult = .holds r →
      ¬(c = .retransmitCustom ∧ r = .txDisabled ∧ s0.restorePending = true) →
      step s = .next
        { s0 with
          trace := s0.trace ++ (match r with
            | .ok => []
            | .txTimeout => [.log .txTimeout]
            | .txDisabled => [.log .txDisabled]
            | .startError e => [.log (.startError e)])
          seqPhase := .rxEnd })
    ∧ ∀ (s s0 : State) (cfg : ModemConfig), SeqTurn s s0 → s0.seqPhase = .rxPost → s0.rxCmd = .holds .retransmitCustom →
      s0.txResult = .holds .txDisabled → s0.restorePending = true → s0.restoreCfg = .holds cfg →
      (s0.env.linkStatus = .ok →
        step s = .next
          { s0 with
            env := s0.env.popLinkStatus
            trace := s0.trace ++ [.call .radio (.begin (applyItems s0.par cfg) .ok), .log .txDisabled]
            curCfg := .holds cfg
            restorePending := false
            seqPhase := .rxEnd })
        ∧ ∀ k, s0.env.linkStatus = .err k →
          step s = .next
            { s0 with
              env := s0.env.popLinkStatus
              trace := s0.trace
                ++ [.call .radio (.begin (applyItems s0.par cfg) (.err k)), .log (.linkFault k), .call .watchdog .restart]
              txState := .halted
              seqPhase := .halted }

/-! ## The commands: results and completion -/

/-- PING completes with the empty PONG of ID_LEN + 2 bytes, whatever data came with it (41_commands.md R185; 30_encoding.md R116). -/
def Obligations.PingAnswersEmptyPong : Prop :=
  ∀ (s : State) (id d : List Byte), IdReady s id → s.txState = .idle →
    ∃ t, exec (.ping d) s = .next t ∧ Sends t id s.par.respPong [] false ∧ t.txLen = id.length + 2
      ∧ t.rxCmd = .holds .ping ∧ t.trace = s.trace ∧ t.fault = s.fault

/-- RETRANSMIT completes with its data echoed byte for byte, and the length byte equal to their number (41_commands.md R188, R189). -/
def Obligations.RetransmitEchoesVerbatim : Prop :=
  ∀ (s : State) (id d : List Byte), IdReady s id → s.txState = .idle → d.length ≤ Config.optMax →
    ∃ t, exec (.retransmit d) s = .next t ∧ Sends t id s.par.respRepeatedMessage d false
      ∧ memRead .tx (id.length + 2) d.length t = .ok d ∧ memRead .tx (id.length + 1) 1 t = .ok [BitVec.ofNat 8 d.length]
      ∧ t.rxCmd = .holds .retransmit ∧ t.trace = s.trace ∧ t.fault = s.fault

/-- RETRANSMIT_CUSTOM with its preconditions met and the driver accepting the override completes: the configuration in force is saved, the
override applied before anything is sent, and the tail echoed with the override argument (41_commands.md R195, R196, R200). -/
def Obligations.CustomAppliesAndEchoes : Prop :=
  ∀ (s : State) (id d : List Byte) (cur : ModemConfig), IdReady s id → s.txState = .idle → s.curCfg = .holds cur →
    8 ≤ d.length → d.length ≤ 39 → (d.getD 0 0).toNat ≤ 7 → (d.getD 5 0 = 0 ∨ d.getD 5 0 = 1) →
    configAccepts s.par.loraCfgValid (cfgFromCustom s.par d) = true → s.env.linkStatus = .ok →
    ∃ t, exec (.retransmitCustom d) s = .next t ∧ Sends t id s.par.respRepeatedMessageCustom (d.drop 7) true
      ∧ t.curCfg = .holds (cfgFromCustom s.par d) ∧ t.restoreCfg = .holds cur ∧ t.restorePending = true
      ∧ t.trace = s.trace ++ [.call .radio (.begin (applyItems s.par (cfgFromCustom s.par d)) .ok)]
      ∧ t.rxCmd = .holds .retransmitCustom ∧ t.fault = s.fault

/-- 41_commands.md R197: RETRANSMIT_CUSTOM with any precondition unmet is a silent skip: only RX_CMD, SEQ_PHASE and the log. -/
def Obligations.CustomSkipsSilently : Prop :=
  ∀ (s : State) (d : List Byte),
    (d.length < 8 ∨ 39 < d.length ∨ 7 < (d.getD 0 0).toNat ∨ (d.getD 5 0 ≠ 0 ∧ d.getD 5 0 ≠ 1)
      ∨ configAccepts s.par.loraCfgValid (cfgFromCustom s.par d) = false) →
    exec (.retransmitCustom d) s = .next
      { s with rxCmd := .holds .retransmitCustom, trace := s.trace ++ [.log .commandPrecondition], seqPhase := .rxEnd }

/-- RETRANSMIT_CUSTOM whose override the driver refuses takes the LinkFault: the bookkeeping stands, CUR_CFG and TXBUF are unchanged and the
block halts (60_exceptions.md R340; vector V-ERR-2). -/
def Obligations.CustomLinkFaultHalts : Prop :=
  ∀ (s : State) (d : List Byte) (cur : ModemConfig) (k : LinkErr), s.curCfg = .holds cur → customAccepted s.par d = true →
    s.env.linkStatus = .err k →
    exec (.retransmitCustom d) s = .next
      { s with
        env := s.env.popLinkStatus
        rxCmd := .holds .retransmitCustom
        restoreCfg := .holds cur
        restorePending := true
        trace := s.trace ++ [.call .radio (.begin (applyItems s.par (cfgFromCustom s.par d)) (.err k)), .log (.linkFault k), .call .watchdog .restart]
        txState := .halted
        seqPhase := .halted }

/-- 30_encoding.md R108, with R109 and 20_memory.md R75: every field of the configuration RETRANSMIT_CUSTOM builds. -/
def Obligations.CustomOperandFields : Prop :=
  ∀ (p : Params) (d : List Byte),
    (cfgFromCustom p d).modemType = .lora
      ∧ ((d.getD 0 0).toNat ≤ 7 →
          ([(7.8 : Rat), 10.4, 15.6, 20.8, 31.25, 41.7, 62.5, 125.0][(d.getD 0 0).toNat]?).map RealValue.rational
            = some (cfgFromCustom p d).bandwidth)
      ∧ (cfgFromCustom p d).spreadingFactor = d.getD 1 0
      ∧ (cfgFromCustom p d).codingRate = d.getD 2 0
      ∧ (cfgFromCustom p d).preambleLength.toNat = (d.getD 3 0).toNat + 256 * (d.getD 4 0).toNat
      ∧ ((cfgFromCustom p d).crcEnabled = true ↔ d.getD 5 0 = 1)
      ∧ (cfgFromCustom p d).outputPower.toInt
          = (if (d.getD 6 0).toNat < 128 then ((d.getD 6 0).toNat : Int) else ((d.getD 6 0).toNat : Int) - 256)
      ∧ (cfgFromCustom p d).carrierFrequency = p.loraDefault.carrierFrequency
      ∧ (cfgFromCustom p d).syncWord = p.loraDefault.syncWord
      ∧ (cfgFromCustom p d).currentLimit = p.loraDefault.currentLimit

/-- TRANSMIT_SYSTEM_INFO completes: the bus voltage and then every further field are read, every quantized byte is then logged in order, and
the bytes are sent (41_commands.md R205). `v` and `vs` are the readings the trace records. Under the reference binding and a multiplier other
than 0 the first byte is floor(v × 1000 / VOLTAGE_MULTIPLIER) clamped to 0..255, for every real reading (41_commands.md R206). -/
def Obligations.SystemInfoSendsTelemetry : Prop :=
  (∀ (s : State) (id d : List Byte), IdReady s id → s.txState = .idle → 1 ≤ s.par.nSysInfo → s.par.nSysInfo ≤ Config.optMax →
    ∃ (t : State) (v : RealValue) (vs : List RealValue) (bs : List Byte),
      exec (.transmitSystemInfo d) s = .next t
        ∧ vs.length = s.par.nSysInfo - 1
        ∧ bs = quantizeVoltage s.par v
            :: List.zipWith Config.fieldQuantizer (List.range' 1 (s.par.nSysInfo - 1)) (vs.map RealValue.floorMul)
        ∧ t.trace = s.trace ++ .call .sensors (.readBusVoltage v)
            :: (List.zipWith (fun k x => Event.call (Config.fieldSource k) (.readField k x)) (List.range' 1 (s.par.nSysInfo - 1)) vs
              ++ List.zipWith (fun k b => Event.log (.sysInfoField k b)) (List.range s.par.nSysInfo) bs)
        ∧ Sends t id s.par.respSystemInfo bs false
        ∧ t.rxCmd = .holds .transmitSystemInfo ∧ t.fault = s.fault)
    ∧ ∀ (p : Params) (v : RealValue) (x : ℝ), p.quantizer = .reference → p.voltageMultiplier ≠ 0 → IsCutOf v.floorMul x →
      ((quantizeVoltage p v).toNat : Int) = min 255 (max 0 ⌊x * 1000 / (p.voltageMultiplier : ℝ)⌋)

/-- GET_LAST_PACKET_INFO completes: SNR and RSSI are read in that order, from the sensors (41_commands.md R208); they are real numbers, and byte 0
is ROUND(snr × 4) as s8 and byte 1 ROUND(rssi × −2) as u8 where those are in range, and any byte otherwise (41_commands.md R207). -/
def Obligations.PacketInfoSendsReadings : Prop :=
  ∀ (s : State) (id d : List Byte), IdReady s id → s.txState = .idle →
    ∃ (t : State) (snr rssi : RealValue) (x y : ℝ) (a r : Int) (b0 b1 : Byte),
      exec (.getLastPacketInfo d) s = .next t
        ∧ t.trace = s.trace ++ [.call .sensors (.readSnr snr), .call .sensors (.readRssi rssi)]
        ∧ IsCutOf snr.floorMul x ∧ IsCutOf (scaled snr 4) (x * 4) ∧ a = roundReal s.par.round (scaled snr 4)
        ∧ IsCutOf rssi.floorMul y ∧ IsCutOf (scaled rssi (-2)) (y * -2) ∧ r = roundReal s.par.round (scaled rssi (-2))
        ∧ Sends t id s.par.respPacketInfo [b0, b1] false
        ∧ (-128 ≤ a → a ≤ 127 → b0.toInt = a)
        ∧ (0 ≤ r → r ≤ 255 → (b1.toNat : Int) = r)
        ∧ t.rxCmd = .holds .getLastPacketInfo ∧ t.fault = s.fault

/-- The rounding parameter, on real numbers given by their products rounded down: every binding maps integers to themselves, the default is the
nearest integer with ties away from zero, and half-to-even the nearest with ties to even (00_scope.md R10; 93_implementation_defined.md
section 2; 92_eei_decisions.md D17). -/
def Obligations.RoundingIsLegal : Prop :=
  (∀ (b : RoundBinding) (f : Rat → Int) (n : Int), IsCutOf f (n : ℝ) → roundReal b f = n)
    ∧ (∀ (f : Rat → Int) (x : ℝ), IsCutOf f x →
      |((roundReal .halfAwayFromZero f : Int) : ℝ) - x| ≤ 1 / 2
        ∧ (|((roundReal .halfAwayFromZero f : Int) : ℝ) - x| = 1 / 2 → |x| < |((roundReal .halfAwayFromZero f : Int) : ℝ)|))
    ∧ ∀ (f : Rat → Int) (x : ℝ), IsCutOf f x →
      |((roundReal .halfToEven f : Int) : ℝ) - x| ≤ 1 / 2
        ∧ (|((roundReal .halfToEven f : Int) : ℝ) - x| = 1 / 2 → Even (roundReal .halfToEven f))

/-- 41_commands.md R212: UNKNOWN is logged and dropped, with no register write besides RX_CMD and the end of the service. -/
def Obligations.UnknownIsLoggedAndDropped : Prop :=
  ∀ (s : State) (f : Byte) (d : List Byte),
    exec (.unknown f d) s = .next
      { s with rxCmd := .holds (.unknown f), trace := s.trace ++ [.log (.unknownFunction f)], seqPhase := .rxEnd }

/-- PRIVATE goes to the handler: dropped and logged when it answers None, as the default handler always does, and answered with its
response otherwise (41_commands.md R214). -/
def Obligations.PrivateGoesToTheHandler : Prop :=
  (∀ (s : State) (f : Byte) (d : List Byte), handlerAnswer s.par.handler f d = none →
      exec (.privateCmd f d) s = .next
        { s with rxCmd := .holds (.privateCmd f), trace := s.trace ++ [.log (.privateFrame f)], seqPhase := .rxEnd })
    ∧ (∀ (s : State) (id d : List Byte) (f r : Byte) (payload : List Byte), IdReady s id → s.txState = .idle →
      handlerAnswer s.par.handler f d = some (r, payload) → payload.length ≤ Config.optMax →
      ∃ t, exec (.privateCmd f d) s = .next t ∧ Sends t id r payload false
        ∧ t.rxCmd = .holds (.privateCmd f) ∧ t.trace = s.trace ∧ t.fault = s.fault)
    ∧ (∀ (f : Byte) (d : List Byte), handlerAnswer (.table []) f d = none)

/-! ## The commands: frames -/

/-- The frame of PING and RETRANSMIT, and of a PRIVATE frame the handler answers: only RX_CMD, TXBUF, TXLEN, TX_OVERRIDE, TXSTATE, SEQ_PHASE
and FAULT may change, and TXBUF only by the response frame stored from offset 0. -/
def Obligations.PlainResponderFrame : Prop :=
  ∀ (i : Instr) (s t : State) (r : Byte) (d : List Byte),
    ((i.command = .ping ∧ r = s.par.respPong ∧ d = [])
      ∨ (i.command = .retransmit ∧ r = s.par.respRepeatedMessage ∧ d = i.data)
      ∨ ∃ f, i.command = .privateCmd f ∧ handlerAnswer s.par.handler f i.data = some (r, d)) →
    exec i s = .next t →
    t = { s with
          rxCmd := t.rxCmd, txBuf := t.txBuf, txLen := t.txLen, txOverride := t.txOverride, txState := t.txState,
          seqPhase := t.seqPhase, fault := t.fault }
      ∧ StoresFrame s t r d

/-- The frame of TRANSMIT_SYSTEM_INFO and GET_LAST_PACKET_INFO: as for the plain responders, and their collaborator calls, which extend TRACE
and take answers from ENV without touching its schedule or the time. -/
def Obligations.TelemetryFrame : Prop :=
  ∀ (i : Instr) (s t : State), (i.command = .transmitSystemInfo ∨ i.command = .getLastPacketInfo) → exec i s = .next t →
    t = { s with
          rxCmd := t.rxCmd, txBuf := t.txBuf, txLen := t.txLen, txOverride := t.txOverride, txState := t.txState,
          seqPhase := t.seqPhase, fault := t.fault, trace := t.trace, env := t.env }
      ∧ s.trace <+: t.trace ∧ t.env.schedule = s.env.schedule ∧ t.env.now = s.env.now
      ∧ (i.command = .transmitSystemInfo →
        ∃ d : List Byte, d.length ≤ s.par.nSysInfo ∧ StoresFrame s t s.par.respSystemInfo d)
      ∧ (i.command = .getLastPacketInfo → ∃ b0 b1 : Byte, StoresFrame s t s.par.respPacketInfo [b0, b1])

/-- The frame of RETRANSMIT_CUSTOM on every path: the interrupt flags, the receive line and buffer, the identifier and the transmit FSM's
times are unchanged, and TXBUF changes only by the response frame stored from offset 0. -/
def Obligations.CustomFrame : Prop :=
  ∀ (d : List Byte) (s t : State), exec (.retransmitCustom d) s = .next t →
    t = { s with
          rxCmd := t.rxCmd, restoreCfg := t.restoreCfg, restorePending := t.restorePending, curCfg := t.curCfg, txBuf := t.txBuf,
          txLen := t.txLen, txOverride := t.txOverride, txState := t.txState, seqPhase := t.seqPhase, fault := t.fault,
          trace := t.trace, env := t.env }
      ∧ s.trace <+: t.trace ∧ t.env.schedule = s.env.schedule ∧ t.env.now = s.env.now
      ∧ StoresFrame s t s.par.respRepeatedMessageCustom (d.drop 7)

/-- 41_commands.md R184: every command but RETRANSMIT_CUSTOM is read-only with respect to modem configuration, and makes no `begin` call. -/
def Obligations.OnlyCustomChangesModem : Prop :=
  ∀ (i : Instr) (s t : State), i.command ≠ .retransmitCustom → exec i s = .next t →
    t.curCfg = s.curCfg ∧ t.restoreCfg = s.restoreCfg ∧ t.restorePending = s.restorePending ∧ t.rxLineEn = s.rxLineEn
      ∧ ∀ (items : List ApplyItem) (r : LinkStatus), Event.call .radio (.begin items r) ∉ newEvents s t

/-! ## The link manager -/

/-- 42_link_manager.md R233, R237: setModem always makes one begin call with params(cfg); CUR_CFG is written after an OK, and a failure is
the fatal entry of 60_exceptions.md R340 with CUR_CFG kept. -/
def Obligations.SetModemFollowsTheDriver : Prop :=
  ∀ (cfg : ModemConfig) (s : State),
    (s.env.linkStatus = .ok →
      setModem cfg s = .run
        { s with
          env := s.env.popLinkStatus
          trace := s.trace ++ [.call .radio (.begin (applyItems s.par cfg) .ok)]
          curCfg := .holds cfg })
      ∧ ∀ k, s.env.linkStatus = .err k →
        setModem cfg s = .ended
          { s with
            env := s.env.popLinkStatus
            trace := s.trace ++ [.call .radio (.begin (applyItems s.par cfg) (.err k)), .log (.linkFault k), .call .watchdog .restart]
            txState := .halted
            seqPhase := .halted }

/-- 42_link_manager.md R235: the apply list of a spread-spectrum configuration, in order, with the oscillator voltage last. The narrowband
list's two fixed items are placed after the shared ones, the model's reading (log 22). -/
def Obligations.ApplyListOrder : Prop :=
  ∀ (p : Params) (c : ModemConfig),
    (c.modemType = .lora → applyItems p c =
      [.carrierFrequency c.carrierFrequency, .bandwidth c.bandwidth, .spreadingFactor c.spreadingFactor, .codingRate c.codingRate,
        .syncWord c.syncWord, .outputPower c.outputPower, .currentLimit c.currentLimit, .preambleLength c.preambleLength,
        .crcMode c.crcEnabled, .oscillatorVoltage p.tcxoVoltage])
      ∧ (c.modemType = .fsk → applyItems p c =
      [.carrierFrequency c.carrierFrequency, .bandwidth c.bandwidth, .spreadingFactor c.spreadingFactor, .codingRate c.codingRate,
        .syncWord c.syncWord, .outputPower c.outputPower, .currentLimit c.currentLimit, .preambleLength c.preambleLength,
        .crcMode c.crcEnabled, .fixedSyncWord p.fskSyncWord, .fixedCrcLength p.fskCrcLen, .oscillatorVoltage p.tcxoVoltage])

/-- 42_link_manager.md R234: CUR_CFG changes only by a step that made a successful begin call with the parameters of its new value, or by
RESET. -/
def Obligations.CurCfgOnlyBySetModem : Prop :=
  ∀ s t : State, step s = .next t → t.curCfg ≠ s.curCfg →
    (nextTurn s).1 = .port .reset
      ∨ ∃ cfg, t.curCfg = .holds cfg ∧ Event.call .radio (.begin (applyItems s.par cfg) .ok) ∈ newEvents s t

/-- 42_link_manager.md R239, 70_reset_and_hazards.md R396: an accepted MODEM_REQ for one of the two static tables applies it unvalidated and
changes nothing else, with the same fatal handling. A request outside SEQ_PHASE = TXSTATE = Idle, or for another configuration, is no move of ENV,
which the model answers by a refusal, its choice of log 9. -/
def Obligations.ModemRequestOnlySwitches : Prop :=
  ∀ (s s0 : State) (cfg : ModemConfig), PortTurn s (.modemReq cfg) s0 → s0.fault = [] →
    (s0.seqPhase = .idle → s0.txState = .idle → (cfg = s0.par.loraDefault ∨ cfg = s0.par.fskDefault) → s0.env.linkStatus = .ok →
      step s = .next
        { s0 with
          env := s0.env.popLinkStatus
          trace := s0.trace ++ [.call .radio (.begin (applyItems s0.par cfg) .ok)]
          curCfg := .holds cfg })
      ∧ (∀ k, s0.seqPhase = .idle → s0.txState = .idle → (cfg = s0.par.loraDefault ∨ cfg = s0.par.fskDefault) →
        s0.env.linkStatus = .err k →
      step s = .next
        { s0 with
          env := s0.env.popLinkStatus
          trace := s0.trace ++ [.call .radio (.begin (applyItems s0.par cfg) (.err k)), .log (.linkFault k), .call .watchdog .restart]
          txState := .halted
          seqPhase := .halted })
      ∧ (¬(s0.seqPhase = .idle ∧ s0.txState = .idle) → step s = .refused .modemReqNotAccepted)
      ∧ (s0.seqPhase = .idle → s0.txState = .idle → cfg ≠ s0.par.loraDefault → cfg ≠ s0.par.fskDefault →
        step s = .refused .modemReqNotATable)

/-! ## The transmit state machine -/

/-- 43_transmit_fsm.md R262: an accepted TX_REQ stores its bytes, requests their transmission for an external caller and changes no other
register or byte. -/
def Obligations.TxRequestStartsTransmission : Prop :=
  ∀ (s s0 : State) (bytes : List Byte) (ov : Bool), PortTurn s (.txReq bytes ov) s0 → s0.fault = [] → s0.seqPhase = .idle →
    s0.txState = .idle → bytes.length ≤ 162 →
    ∃ t, step s = .next t ∧ readTransmit t = .ok bytes ∧ t.txLen = bytes.length
      ∧ t = { s0 with txBuf := t.txBuf, txLen := t.txLen, txOverride := ov, txState := .preparing, seqPhase := .extTx }
      ∧ ∀ a, bytes.length ≤ a → t.txBuf.byte a = s0.txBuf.byte a

/-- 43_transmit_fsm.md R265: with the transmission switch off, Preparing asks storage and rejects with TxDisabled, and RXLINE_EN, CUR_CFG
and RESTORE_* are unchanged. -/
def Obligations.PreparingRefusesWhenDisabled : Prop :=
  ∀ s s0 : State, TxTurn s .preparing s0 → s0.env.enable = false →
    step s = .next
      { s0 with
        env := s0.env.popEnable
        trace := s0.trace ++ [.call .storage (.isTransmissionEnabled false)]
        txPendingResult := .holds .txDisabled
        txExitNeeded := false
        txState := .rejected }

/-- 43_transmit_fsm.md R266, R267, R268: enabled and without an override, Preparing detaches the receive line, saves the configuration in
force, applies LORA_DEFAULT, and asks the time on air after the switch; the timeout is floor(3·toa/2). A refused switch is fatal, with
the line already detached and the bookkeeping written. -/
def Obligations.PreparingSwitchesModem : Prop :=
  ∀ (s s0 : State) (cur : ModemConfig), TxTurn s .preparing s0 → s0.env.enable = true → s0.txOverride = false →
    s0.curCfg = .holds cur →
    (s0.env.popEnable.linkStatus = .ok →
      step s = .next
        { s0 with
          env := s0.env.popEnable.popLinkStatus.popTimeOnAir
          trace := s0.trace
            ++ [.call .storage (.isTransmissionEnabled true), .call .radio (.setDio1Action .none),
              .call .radio (.begin (applyItems s0.par s0.par.loraDefault) .ok),
              .call .radio (.getTimeOnAir s0.txLen s0.env.popEnable.popLinkStatus.timeOnAir)]
          rxLineEn := false
          txExitNeeded := true
          restoreCfg := .holds cur
          restorePending := true
          curCfg := .holds s0.par.loraDefault
          txTimeout := .holds (3 * s0.env.popEnable.popLinkStatus.timeOnAir / 2)
          txStarted := false
          txState := .sending })
      ∧ ∀ k, s0.env.popEnable.linkStatus = .err k →
        step s = .next
          { s0 with
            env := s0.env.popEnable.popLinkStatus
            trace := s0.trace
              ++ [.call .storage (.isTransmissionEnabled true), .call .radio (.setDio1Action .none),
                .call .radio (.begin (applyItems s0.par s0.par.loraDefault) (.err k)), .log (.linkFault k), .call .watchdog .restart]
            rxLineEn := false
            txExitNeeded := true
            restoreCfg := .holds cur
            restorePending := true
            txState := .halted
            seqPhase := .halted }

/-- 43_transmit_fsm.md R267, R268: with an override, Preparing neither switches the modem nor touches RESTORE_*. -/
def Obligations.PreparingKeepsOverride : Prop :=
  ∀ s s0 : State, TxTurn s .preparing s0 → s0.env.enable = true → s0.txOverride = true →
    step s = .next
      { s0 with
        env := s0.env.popEnable.popTimeOnAir
        trace := s0.trace
          ++ [.call .storage (.isTransmissionEnabled true), .call .radio (.setDio1Action .none), .call .radio (.getTimeOnAir s0.txLen s0.env.popEnable.timeOnAir)]
        rxLineEn := false
        txExitNeeded := true
        txTimeout := .holds (3 * s0.env.popEnable.timeOnAir / 2)
        txStarted := false
        txState := .sending }

/-- 43_transmit_fsm.md R269, R270: the start sub-step sends TXBUF[0..TXLEN−1]; a driver error is final, and success reads NOW once for both
times, with no heartbeat. -/
def Obligations.StartSubStep : Prop :=
  ∀ (s s0 : State) (buf : List Byte), TxTurn s .sending s0 → s0.txStarted = false → readTransmit s0 = .ok buf →
    (s0.env.startStatus ≠ s0.par.drvOk →
      step s = .next
        { s0 with
          env := s0.env.popStartStatus
          trace := s0.trace ++ [.call .radio (.startTransmit buf s0.txLen s0.env.startStatus)]
          txPendingResult := .holds (.startError s0.env.startStatus)
          txState := .rejected })
      ∧ (s0.env.startStatus = s0.par.drvOk →
      step s = .next
        { s0 with
          env := s0.env.popStartStatus.popNow
          trace := s0.trace ++ [.call .radio (.startTransmit buf s0.txLen s0.env.startStatus)]
          txT0 := .holds s0.env.popStartStatus.readNow
          txLastBeat := .holds s0.env.popStartStatus.readNow
          txStarted := true })

/-- 43_transmit_fsm.md R271, R273, R274: a poll tests completion first and then reads no time; otherwise a heartbeat is issued when
HB_PERIOD has passed since the last one, and then the transmission times out when more than the timeout has passed since TX_T0. -/
def Obligations.PollSubStep : Prop :=
  ∀ s s0 : State, TxTurn s .sending s0 → s0.txStarted = true →
    (s0.env.txDone = true →
      step s = .next { s0 with env := s0.env.popTxDone, txPendingResult := .holds .ok, txState := .done })
      ∧ ∀ (last t0 timeout now : Nat), s0.env.txDone = false → s0.txLastBeat = .holds last → s0.txT0 = .holds t0 →
        s0.txTimeout = .holds timeout → now = s0.env.popTxDone.readNow →
        step s = .next
          { s0 with
            env := s0.env.popTxDone.popNow
            trace := if last + s0.par.hbPeriod ≤ now then s0.trace ++ [.call .watchdog .heartbeat] else s0.trace
            txLastBeat := if last + s0.par.hbPeriod ≤ now then .holds now else .holds last
            txPendingResult := if t0 + timeout < now then .holds .txTimeout else s0.txPendingResult
            txState := if t0 + timeout < now then .timedOut else .sending }

/-- 43_transmit_fsm.md R290: the exit step. With no exit sequence due it makes no call; with one due it makes standby, restores the modem if
a restore is pending, re-attaches the line and listens. The result is published, TXSTATE is Idle, and SEQ_PHASE goes from RxTx to RxPost and from
ExtTx to Idle. A refused restore is fatal, with RESTORE_PENDING and the detached line kept. -/
def Obligations.ExitStepRestores : Prop :=
  ∀ (s s0 : State) (x : TxState) (r : TxResult) (next : SeqPhase), x.isExiting = true → TxTurn s x s0 → s0.txPendingResult = .holds r →
    ((s0.seqPhase = .rxTx ∧ next = .rxPost) ∨ (s0.seqPhase = .extTx ∧ next = .idle)) →
    (s0.txExitNeeded = false →
      step s = .next { s0 with txResult := .holds r, txState := .idle, seqPhase := next })
      ∧ (s0.txExitNeeded = true → s0.restorePending = false →
      step s = .next
        { s0 with
          trace := s0.trace ++ [.call .radio .standby, .call .radio (.setDio1Action .rxIsr), .call .radio .startReceive]
          rxLineEn := true
          txResult := .holds r
          txState := .idle
          seqPhase := next })
      ∧ (∀ cfg, s0.txExitNeeded = true → s0.restorePending = true → s0.restoreCfg = .holds cfg → s0.env.linkStatus = .ok →
      step s = .next
        { s0 with
          env := s0.env.popLinkStatus
          trace := s0.trace
            ++ [.call .radio .standby, .call .radio (.begin (applyItems s0.par cfg) .ok), .call .radio (.setDio1Action .rxIsr), .call .radio .startReceive]
          curCfg := .holds cfg
          restorePending := false
          rxLineEn := true
          txResult := .holds r
          txState := .idle
          seqPhase := next })
      ∧ (∀ cfg k, s0.txExitNeeded = true → s0.restorePending = true → s0.restoreCfg = .holds cfg → s0.env.linkStatus = .err k →
      step s = .next
        { s0 with
          env := s0.env.popLinkStatus
          trace := s0.trace
            ++ [.call .radio .standby, .call .radio (.begin (applyItems s0.par cfg) (.err k)), .log (.linkFault k), .call .watchdog .restart]
          txState := .halted
          seqPhase := .halted })

/-- 43_transmit_fsm.md R291: after an exit step that ends in Idle with the exit sequence due, no restore is pending, the line is attached,
the radio calls came in the mandatory order, and a pending restore has put RESTORE_CFG in force. -/
def Obligations.ExitLeavesReceiveReady : Prop :=
  ∀ (s s0 t : State) (x : TxState), x.isExiting = true → TxTurn s x s0 → s0.txExitNeeded = true → step s = .next t → t.txState = .idle →
    t.restorePending = false ∧ t.rxLineEn = true
      ∧ (s0.restorePending = false →
        newEvents s t = [.call .radio .standby, .call .radio (.setDio1Action .rxIsr), .call .radio .startReceive] ∧ t.curCfg = s0.curCfg)
      ∧ (s0.restorePending = true → ∃ cfg, s0.restoreCfg = .holds cfg ∧ t.curCfg = .holds cfg
        ∧ newEvents s t
          = [.call .radio .standby, .call .radio (.begin (applyItems s0.par cfg) .ok), .call .radio (.setDio1Action .rxIsr), .call .radio .startReceive])

/-- 43_transmit_fsm.md R292: a transmission refused for TxDisabled makes no call between Preparing and the return to Idle but the one to
storage, and leaves the modem, the restore bookkeeping and the receive line as they were. That an empty schedule gives SEQ its turns is
the model's choice, log 6. -/
def Obligations.DisabledTransmissionMakesNoRadioCall : Prop :=
  ∀ s : State, s.env.schedule = [] → s.fault = [] → (s.seqPhase = .rxTx ∨ s.seqPhase = .extTx) → s.txState = .preparing →
    s.env.enable = false →
    ∃ t, Sys2Proof.core.run 2 s = .next t ∧ t.txState = .idle ∧ t.txResult = .holds .txDisabled
      ∧ t.trace = s.trace ++ [.call .storage (.isTransmissionEnabled false)]
      ∧ t.curCfg = s.curCfg ∧ t.restoreCfg = s.restoreCfg ∧ t.restorePending = s.restorePending ∧ t.rxLineEn = s.rxLineEn

/-- 43_transmit_fsm.md R261: in every state of the invariant, TXSTATE moves only along the FSM's edges, apart from RESET. -/
def Obligations.TransmitStateFollowsItsEdges : Prop :=
  ∀ s t : State, Invariant s → step s = .next t → (nextTurn s).1 = .port .reset ∨ TxEdge s.txState t.txState

/-- 43_transmit_fsm.md R272: no step issues two heartbeats, and one that issues a heartbeat does so at least HB_PERIOD after TX_LASTBEAT,
which it sets to its own time. A step that issues none keeps TX_LASTBEAT, unless it is the start sub-step or RESET, so two heartbeats of one
transmission lie at least HB_PERIOD apart. -/
def Obligations.HeartbeatsAreAPeriodApart : Prop :=
  ∀ s t : State, step s = .next t →
    ((newEvents s t).filter Event.isHeartbeat).length ≤ 1
      ∧ (Event.call .watchdog .heartbeat ∈ newEvents s t →
        ∃ last now, s.txLastBeat = .holds last ∧ t.txLastBeat = .holds now ∧ now = t.env.now ∧ last + s.par.hbPeriod ≤ now
          ∧ s.txState = .sending ∧ s.txStarted = true)
      ∧ (Event.call .watchdog .heartbeat ∉ newEvents s t →
        t.txLastBeat = s.txLastBeat ∨ (nextTurn s).1 = .port .reset
          ∨ ((nextTurn s).1 = .seq ∧ s.txState = .sending ∧ s.txStarted = false ∧ t.txStarted = true))

/-- 43_transmit_fsm.md R283: in every fair run (00_scope.md R9) from a state of the invariant, every transmission reaches Idle or Halted after
finitely many steps. And with nothing else scheduled, a poll loop whose scripted time grows past the timeout reaches Idle or Halted one step
after at most as many polls as there are time steps; there the empty schedule and the script of time are the model's choices, log 6 and
log 8. Which agents count as enabled in a fair run is its reading, log 29. -/
def Obligations.PollLoopTerminates : Prop :=
  (∀ r u : Nat → State, FairRun r u → Invariant (r 0) →
    ∀ n, ∃ m, n ≤ m ∧ ((r m).txState = .idle ∨ (r m).txState = .halted))
    ∧ ∀ (s : State) (timeout : Nat), Invariant s → s.env.schedule = [] → s.txState = .sending → s.txStarted = true →
      s.txTimeout = .holds timeout → timeout < s.env.timeSteps.sum →
      ∃ (k : Nat) (t : State), k ≤ s.env.timeSteps.length + 1 ∧ Sys2Proof.core.run k s = .next t
        ∧ (t.txState = .idle ∨ t.txState = .halted)

/-! ## Interrupts and flags -/

/-- 60_exceptions.md R330, R333: a delivery is received whole, DATA_RX is set exactly when the line is attached and INT_EN is set, and
nothing else changes. -/
def Obligations.DeliveryIsGated : Prop :=
  ∀ (s s0 : State) (bytes : List Byte), PortTurn s (.rxDeliver bytes) s0 → bytes.length ≤ 162 →
    ∃ t, step s = .next t ∧ readReceived t = .ok bytes
      ∧ t.dataRx = (s0.dataRx || (s0.rxLineEn && s0.intEn))
      ∧ t = { s0 with rxBuf := t.rxBuf, rxLen := bytes.length, dataRx := t.dataRx }

/-- 60_exceptions.md R331: a timer event sets SWITCH_MODEM exactly when INT_EN is set, whatever RXLINE_EN is, and nothing else changes. -/
def Obligations.TimerIsGatedByIntEn : Prop :=
  ∀ s s0 : State, PortTurn s .tmrEvent s0 →
    (s0.intEn = true → step s = .next { s0 with switchModem := true }) ∧ (s0.intEn = false → step s = .next s0)

/-- 10_state.md R35, R36: DATA_RX is set only in a step of ISR_RX with INT_EN set, inside a delivery to the attached line, and cleared only by RxAck
or RESET; SWITCH_MODEM is set only in a step of ISR_TMR with INT_EN set and cleared only by ENV or RESET. ENV's clear is enabled in every state
(R64) and changes nothing else. -/
def Obligations.FlagsHaveOneWriterPerDirection : Prop :=
  (∀ s t : State, step s = .next t →
    (s.dataRx = false → t.dataRx = true →
        s.intEn = true ∧ s.rxLineEn = true ∧ (∃ bytes, (nextTurn s).1 = .port (.rxDeliver bytes)) ∧ Agent.isrRx.moves s)
      ∧ (s.dataRx = true → t.dataRx = false → (nextTurn s).1 = .port .reset ∨ ((nextTurn s).1 = .seq ∧ s.seqPhase = .rxAck))
      ∧ (s.switchModem = false → t.switchModem = true → s.intEn = true ∧ (nextTurn s).1 = .port .tmrEvent ∧ Agent.isrTmr.moves s)
      ∧ (s.switchModem = true → t.switchModem = false →
        (nextTurn s).1 = .port .reset ∨ (nextTurn s).1 = .port .clearSwitchModem))
    ∧ ∀ s s0 : State, PortTurn s .clearSwitchModem s0 → step s = .next { s0 with switchModem := false }

/-- 60_exceptions.md R332, 10_state.md R34: no ISR writes INT_EN. It changes only by SEQ in Boot, RxAck and RxEnd, by ENV, or by RESET. That ENV may
write it in SEQ_PHASE = Idle and ExtTx, with no other effect, and nowhere else is the model's reading of 10_state.md R64, log 16. -/
def Obligations.IntEnIsWrittenInNormalContext : Prop :=
  (∀ s t : State, step s = .next t → t.intEn ≠ s.intEn →
    (nextTurn s).1 = .port .reset
      ∨ ((∃ b, (nextTurn s).1 = .port (.setIntEn b)) ∧ (s.seqPhase = .idle ∨ s.seqPhase = .extTx))
      ∨ ((nextTurn s).1 = .seq ∧ (s.seqPhase = .boot ∨ s.seqPhase = .rxAck ∨ s.seqPhase = .rxEnd)))
    ∧ ∀ (s s0 : State) (b : Bool), PortTurn s (.setIntEn b) s0 →
      ((s0.seqPhase = .idle ∨ s0.seqPhase = .extTx) → step s = .next { s0 with intEn := b })
        ∧ (s0.seqPhase ≠ .idle → s0.seqPhase ≠ .extTx → step s = .refused .intEnWriteInBracket)

/-- 10_state.md R37: RXLINE_EN is written only together with the matching setDio1Action call, or by RESET. -/
def Obligations.ReceiveLineWritesGoWithTheCall : Prop :=
  ∀ s t : State, step s = .next t → t.rxLineEn ≠ s.rxLineEn →
    (nextTurn s).1 = .port .reset
      ∨ (t.rxLineEn = true ∧ Event.call .radio (.setDio1Action .rxIsr) ∈ newEvents s t)
      ∨ (t.rxLineEn = false ∧ Event.call .radio (.setDio1Action .none) ∈ newEvents s t)

/-- 10_state.md R49: RXBUF and RXLEN change only by a delivery or RESET, TXBUF and TXLEN only by SEQ in RxDecode, by TX_REQ or by RESET, and the
identifier only by boot or RESET. No step writes a parameter: that they are fixed for the run is 70_reset_and_hazards.md R387 and
42_link_manager.md R231, that they are a field of State no step writes is the model's choice, log 1, and that RESET keeps them its reading,
log 19. -/
def Obligations.BuffersHaveOneWriter : Prop :=
  ∀ s t : State, step s = .next t →
    (¬(t.rxBuf = s.rxBuf ∧ t.rxLen = s.rxLen) → (nextTurn s).1 = .port .reset ∨ ∃ bytes, (nextTurn s).1 = .port (.rxDeliver bytes))
      ∧ (¬(t.txBuf = s.txBuf ∧ t.txLen = s.txLen) →
        (nextTurn s).1 = .port .reset ∨ (∃ bytes ov, (nextTurn s).1 = .port (.txReq bytes ov))
          ∨ ((nextTurn s).1 = .seq ∧ s.seqPhase = .rxDecode))
      ∧ (¬(t.idBuf = s.idBuf ∧ t.idLen = s.idLen) →
        (nextTurn s).1 = .port .reset ∨ ((nextTurn s).1 = .seq ∧ s.seqPhase = .boot))
      ∧ t.par = s.par

/-! ## Fatal faults, model faults, reset -/

/-- 60_exceptions.md R340: Halted is entered only by taking a LinkFault: the step's last events are the log and the restart call, both state
registers halt, and CUR_CFG, INT_EN, DATA_RX and SWITCH_MODEM keep their values. -/
def Obligations.HaltedOnlyByLinkFault : Prop :=
  ∀ s t : State, step s = .next t → s.seqPhase ≠ .halted → t.seqPhase = .halted →
    t.txState = .halted ∧ t.curCfg = s.curCfg ∧ t.intEn = s.intEn ∧ t.dataRx = s.dataRx ∧ t.switchModem = s.switchModem
      ∧ ∃ k items, [Event.call .radio (.begin items (.err k)), .log (.linkFault k), .call .watchdog .restart] <:+ newEvents s t

/-- 60_exceptions.md R341: in Halted SEQ has no step, and only RESET leaves it. That a SEQ turn without a step is the identity is the
model's choice, log 12. -/
def Obligations.HaltedUntilReset : Prop :=
  ∀ s : State, s.seqPhase = .halted →
    (∀ s0, SeqTurn s s0 → step s = .next s0)
      ∧ ∀ t, step s = .next t → (nextTurn s).1 = .port .reset ∨ (t.seqPhase = .halted ∧ t.txState = s.txState ∧ t.curCfg = s.curCfg)

/-- 60_exceptions.md R322, 10_state.md R45: in a fault state SEQ takes no step, and no step but RESET removes a fault. That the recorded
fault shows as the outcome is the model's choice, log 10. -/
def Obligations.ModelFaultsStopSeq : Prop :=
  (∀ (s s0 : State) (f : Fault) (fs : List Fault), nextTurn s = (.seq, s0) → s0.fault = f :: fs → step s = .fault f)
    ∧ ∀ s t : State, step s = .next t → (nextTurn s).1 ≠ .port .reset → s.fault <+: t.fault

/-- 10_state.md R46: TRACE only grows, except that RESET starts a new one. -/
def Obligations.TraceOnlyGrows : Prop :=
  ∀ s t : State, step s = .next t → (nextTurn s).1 ≠ .port .reset → s.trace <+: t.trace

/-- 60_exceptions.md R322: the invariant is kept by every step, so no model fault is ever recorded and no register is read unwritten. -/
def Obligations.NoModelFaultIsReached : Prop :=
  ∀ s t : State, Invariant s → step s = .next t → Invariant t

/-- 43_transmit_fsm.md R290, 41_commands.md R182: the restore discipline is kept by every step: whenever SEQ_PHASE is back at Idle the receive
line is attached and no override is left to undo. -/
def Obligations.RestoreDisciplineIsKept : Prop :=
  ∀ s t : State, Invariant s → ReceiveReady s → step s = .next t → ReceiveReady t

/-- Both invariants hold right after reset, under the reset binding that is the model's choice, log 1. -/
def Obligations.ResetMeetsTheInvariants : Prop := Invariant State.reset ∧ ReceiveReady State.reset

/-- 10_state.md R50, 70_reset_and_hazards.md R380: RESET, in every state, gives every register its reset value, and leaves unwritten those the
table lists so, whatever value they hold (log 30). ENV's own state survives (70_reset_and_hazards.md R383). That the parameters, a field of
State in this model, survive too is the model's reading, log 19. -/
def Obligations.ResetValues : Prop :=
  ∀ s s0 : State, PortTurn s .reset s0 →
    ∃ t, step s = .next t
      ∧ t.idLen.isWritten = false ∧ t.idBuf = [] ∧ t.rxBuf = [] ∧ t.rxLen = 0 ∧ t.txBuf = [] ∧ t.txLen = 0
      ∧ t.intEn = false ∧ t.dataRx = false ∧ t.switchModem = false ∧ t.rxLineEn = false
      ∧ t.curCfg.isWritten = false ∧ t.restoreCfg.isWritten = false ∧ t.restorePending = false
      ∧ t.txState = .idle ∧ t.txOverride = false ∧ t.txTimeout.isWritten = false ∧ t.txT0.isWritten = false ∧ t.txLastBeat.isWritten = false
      ∧ t.txResult.isWritten = false ∧ t.txPendingResult.isWritten = false ∧ t.txStarted = false ∧ t.txExitNeeded = false
      ∧ t.seqPhase = .boot ∧ t.intSave.isWritten = false ∧ t.rxCmd.isWritten = false ∧ t.fault = [] ∧ t.trace = []
      ∧ t.par = s0.par ∧ t.env = s0.env

/-- 70_reset_and_hazards.md R385: the boot step loads the identifier, dropping bytes past its length, applies BOOT_MODEM, attaches the line,
starts receiving and enables interrupts, with its four calls in that order. A BOOT_MODEM the driver refuses is the fatal entry of
60_exceptions.md R340, with the identifier loaded and CUR_CFG, the line and INT_EN as they were. -/
def Obligations.BootLoadsIdentifierAndModem : Prop :=
  ∀ (s s0 : State) (b : List Byte) (l : Nat), SeqTurn s s0 → s0.seqPhase = .boot → s0.env.callsign = (b, l) →
    1 ≤ l → l ≤ 32 → l ≤ b.length →
    (s0.env.popCallsign.linkStatus = .ok →
      ∃ t, step s = .next t ∧ readId t = .ok (b.take l)
        ∧ t = { s0 with
                env := s0.env.popCallsign.popLinkStatus
                idLen := .holds l
                idBuf := t.idBuf
                curCfg := .holds (staticTable s0.par s0.par.bootModem)
                trace := s0.trace
                  ++ [.call .storage (.getCallsign b l),
                    .call .radio (.begin (applyItems s0.par (staticTable s0.par s0.par.bootModem)) .ok),
                    .call .radio (.setDio1Action .rxIsr), .call .radio .startReceive]
                rxLineEn := true
                intEn := true
                seqPhase := .idle })
      ∧ ∀ k, s0.env.popCallsign.linkStatus = .err k →
        ∃ t, step s = .next t ∧ readId t = .ok (b.take l)
          ∧ t = { s0 with
                  env := s0.env.popCallsign.popLinkStatus
                  idLen := .holds l
                  idBuf := t.idBuf
                  trace := s0.trace
                    ++ [.call .storage (.getCallsign b l),
                      .call .radio (.begin (applyItems s0.par (staticTable s0.par s0.par.bootModem)) (.err k)),
                      .log (.linkFault k), .call .watchdog .restart]
                  txState := .halted
                  seqPhase := .halted }
end

