-- ==== Sys2Proof/Laws/Codec.lean ====
section
/-! SUPPORT. The laws of the frame codec: lengths and bytes of a frame, the prefix comparison, header decode of a frame, selection. -/

namespace Sys2Proof

@[simp] theorem frame_length (id : List Byte) (c : Byte) (d : List Byte) :
    (frame id c d).length = frameLength id.length d.length := by
  simp only [frame, List.length_append, List.length_cons, frameLength]
  omega

@[simp] theorem comparedId_length (id : List Byte) : (comparedId id).length = id.length - 1 := by
  simp [comparedId]

/-- Step 1 of decodeHeader succeeds exactly when the compared bytes are the leading received ones. -/
theorem identifierMatches_iff (c rx : List Byte) : identifierMatches c rx = true ↔ c <+: rx := by
  induction c generalizing rx with
  | nil => simp [identifierMatches]
  | cons b c ih =>
    cases rx with
    | nil => simp [identifierMatches]
    | cons r rx =>
      simp only [identifierMatches, Bool.and_eq_true, decide_eq_true_eq, ih, List.cons_prefix_cons]
      exact and_congr_left fun _ => eq_comm

/-- The code byte of a frame stands after the identifier (30_encoding.md R101). -/
theorem frame_code (id : List Byte) (c : Byte) (d : List Byte) : (frame id c d).getD id.length 0 = c := by
  simp [frame, List.getD_eq_getElem?_getD]

/-- The length byte of a frame stands after the code byte (30_encoding.md R101). -/
theorem frame_lengthByte (id : List Byte) (c : Byte) (d : List Byte) :
    (frame id c d).getD (id.length + 1) 0 = BitVec.ofNat 8 d.length := by
  simp [frame, List.getD_eq_getElem?_getD]

/-- The optional data of a frame stand after the length byte (30_encoding.md R101). -/
theorem frame_data (id : List Byte) (c : Byte) (d : List Byte) : (frame id c d).drop (id.length + 2) = d := by
  simp [frame, List.drop_append]

/-- The compared identifier bytes are the leading bytes of a frame. -/
theorem comparedId_isPrefix_frame (id : List Byte) (c : Byte) (d : List Byte) : comparedId id <+: frame id c d :=
  (List.take_prefix _ _).trans (List.prefix_append _ _)

/-- A legal length fits its byte (30_encoding.md R105). -/
theorem lengthByte_toNat {n : Nat} (h : n ≤ Config.optMax) : (BitVec.ofNat 8 n).toNat = n := by
  have : n < 256 := Nat.lt_of_le_of_lt h (by decide)
  simp [Nat.mod_eq_of_lt this]

/-- What decodeHeader answers with Ok (40_codec.md R141): all four checks passed. -/
theorem decodeHeader_ok_iff (id rx : List Byte) (h : Header) :
    decodeHeader id rx = .ok h ↔
      identifierMatches (comparedId id) rx = true ∧ id.length + 2 ≤ rx.length
        ∧ (rx.getD (id.length + 1) 0).toNat ≤ Config.optMax
        ∧ frameLength id.length (rx.getD (id.length + 1) 0).toNat ≤ rx.length
        ∧ h = { functionId := rx.getD id.length 0
                dataLength := (rx.getD (id.length + 1) 0).toNat
                dataOffset := id.length + 2 } := by
  unfold decodeHeader
  split
  · next h1 => simp [h1]
  · next h1 =>
    rw [Bool.not_eq_false] at h1
    split
    · next h2 => exact ⟨fun h => absurd h (by simp), fun h => absurd h2 (Nat.not_lt.mpr h.2.1)⟩
    · next h2 =>
      split
      · next h3 => exact ⟨fun h => absurd h (by simp), fun h => absurd h3 (Nat.not_lt.mpr h.2.2.1)⟩
      · next h3 =>
        split
        · next h4 => exact ⟨fun h => absurd h (by simp), fun h => absurd h4 (Nat.not_lt.mpr h.2.2.2.1)⟩
        · next h4 =>
          refine ⟨fun h => ⟨h1, Nat.not_lt.mp h2, Nat.not_lt.mp h3, Nat.not_lt.mp h4, ?_⟩, fun h => ?_⟩
          · exact (Except.ok.inj h).symm
          · rw [h.2.2.2.2]

/-- The optional data handed to the dispatcher are as long as the length byte says (40_codec.md R147). -/
theorem optionalDataOf_length {id rx : List Byte} {h : Header} (hd : decodeHeader id rx = .ok h) :
    (optionalDataOf rx h).length = h.dataLength ∧ h.dataLength ≤ Config.optMax := by
  obtain ⟨_, _, h3, h4, rfl⟩ := (decodeHeader_ok_iff _ _ _).mp hd
  refine ⟨?_, h3⟩
  simp only [optionalDataOf, List.length_take, List.length_drop]
  unfold frameLength at h4
  omega

/-- A decoded instruction's data fit the length byte's legal range (41_commands.md R188). -/
theorem decode_dataFits {p : Params} {id rx : List Byte} {i : Instr} (hd : decode p id rx = .ok i) : i.data.length ≤ Config.optMax := by
  unfold decode at hd
  split at hd
  · exact absurd hd (by simp)
  · next h hh =>
    obtain ⟨h1, h2⟩ := optionalDataOf_length hh
    have hi : (selectCommand p h.functionId).toInstr (optionalDataOf rx h) = i := by simpa using hd
    subst hi
    cases selectCommand p h.functionId <;> simpa [Command.toInstr, Instr.data, h1] using h2

/-- The parts of a well-formed binding that selection needs (30_encoding.md R111). -/
theorem Params.wf_commands {p : Params} (h : p.wf = true) :
    p.commandIds.Nodup ∧ (∀ c ∈ p.commandIds, c < p.privateOffset) ∧ 1 ≤ p.privateOffset.toNat := by
  simp only [wf, Bool.and_eq_true, decide_eq_true_eq, List.all_eq_true] at h
  exact ⟨h.1.1.1.1.1.1.1.1, h.1.1.1.1.1.1.1.2, h.1.1.1.1.1.1.2⟩

/-- A frame whose compared identifier bytes match decodes to its own fields (40_codec.md R141, R153). -/
theorem decodeHeader_frame {id w d : List Byte} (f : Byte) (hd : d.length ≤ Config.optMax) (hl : w.length = id.length)
    (hc : comparedId w = comparedId id) : decodeHeader id (frame w f d) = .ok ⟨f, d.length, id.length + 2⟩ := by
  rw [decodeHeader_ok_iff]
  have e1 := frame_lengthByte w f d
  have e2 := frame_code w f d
  rw [hl] at e1 e2
  have hb := lengthByte_toNat hd
  refine ⟨?_, ?_, ?_, ?_, ?_⟩
  · rw [identifierMatches_iff, ← hc]; exact comparedId_isPrefix_frame _ _ _
  · rw [frame_length]; unfold frameLength; omega
  · rw [e1, hb]; exact hd
  · rw [e1, hb, frame_length, hl]
  · rw [e1, hb, e2]

/-- The optional data of a frame come back from it (40_codec.md R147). -/
theorem optionalDataOf_frame (w d : List Byte) (f g : Byte) {n : Nat} (h : n = w.length + 2) :
    optionalDataOf (frame w f d) ⟨g, d.length, n⟩ = d := by
  subst h
  simp [optionalDataOf, frame_data]

/-- An instruction is its command and its data. -/
theorem toInstr_command (i : Instr) : i.command.toInstr i.data = i := by cases i <;> rfl

/-- A legal identifier is 1 to 32 bytes (10_state.md R31). -/
theorem identifierFits_iff (id : List Byte) : identifierFits id = true ↔ 1 ≤ id.length ∧ id.length ≤ Config.idMax := by
  simp [identifierFits]

end Sys2Proof
end

