-- ==== Sys2Proof/Laws/Memory.lean ====
section
/-! SUPPORT. The laws of the byte spaces: read after write, writes elsewhere, and the canonical form every operation keeps. -/

namespace Sys2Proof.Machine

@[simp] theorem Memory.byte_nil (a : Nat) : Memory.byte [] a = none := rfl

@[simp] theorem Memory.read_zero (m : Memory) (off : Nat) : m.read off 0 = some [] := rfl

@[simp] theorem Memory.write_nil (m : Memory) (off : Nat) : m.write off [] = m := rfl

theorem Memory.write_cons (m : Memory) (off : Nat) (b : Byte) (bs : List Byte) :
    m.write off (b :: bs) = (Memory.put off b m).write (off + 1) bs := rfl

/-- Reading one byte after writing one, at the same place or elsewhere. -/
theorem Memory.byte_put (m : Memory) (a x : Nat) (b : Byte) :
    (Memory.put a b m).byte x = if x = a then some b else m.byte x := by
  induction m with
  | nil =>
    by_cases h : a = x
    · simp [put, byte, h]
    · simp [put, byte, h, Ne.symm h]
  | cons c m ih =>
    unfold put
    by_cases hlt : a < c.1
    · rw [if_pos hlt]
      by_cases hx : a = x
      · subst hx; simp [byte]
      · simp [byte, hx, Ne.symm hx]
    · rw [if_neg hlt]
      by_cases heq : a = c.1
      · rw [if_pos heq]
        by_cases hx : a = x
        · subst hx; simp [byte]
        · have : c.1 ≠ x := by omega
          simp [byte, hx, Ne.symm hx, this]
      · rw [if_neg heq]
        by_cases hc : c.1 = x
        · have : x ≠ a := by omega
          simp [byte, hc, this]
        · simp [byte, hc, ih]

/-- A byte below the written string is as before. -/
theorem Memory.byte_write_below (bs : List Byte) :
    ∀ (m : Memory) (off a : Nat), a < off → (m.write off bs).byte a = m.byte a := by
  induction bs with
  | nil => intro m off a _; rfl
  | cons b bs ih =>
    intro m off a h
    rw [write_cons, ih _ _ _ (by omega), byte_put, if_neg (by omega)]

/-- A byte above the written string is as before. -/
theorem Memory.byte_write_above (bs : List Byte) :
    ∀ (m : Memory) (off a : Nat), off + bs.length ≤ a → (m.write off bs).byte a = m.byte a := by
  induction bs with
  | nil => intro m off a _; rfl
  | cons b bs ih =>
    intro m off a h
    simp only [List.length_cons] at h
    rw [write_cons, ih _ _ _ (by omega), byte_put, if_neg (by omega)]

/-- Two memories that agree on the bytes read give the same string. -/
theorem Memory.read_congr (n : Nat) :
    ∀ (m m' : Memory) (off : Nat), (∀ a, off ≤ a → a < off + n → m.byte a = m'.byte a) → m.read off n = m'.read off n := by
  induction n with
  | zero => intros; rfl
  | succ n ih =>
    intro m m' off h
    have h0 := h off (by omega) (by omega)
    have h1 := ih m m' (off + 1) fun a h1 h2 => h a (by omega) (by omega)
    simp only [read, h0, h1]

/-- Reading back a written byte string. -/
theorem Memory.read_write_same (bs : List Byte) :
    ∀ (m : Memory) (off : Nat), (m.write off bs).read off bs.length = some bs := by
  induction bs with
  | nil => intros; rfl
  | cons b bs ih =>
    intro m off
    have hb : ((Memory.put off b m).write (off + 1) bs).byte off = some b := by
      rw [byte_write_below _ _ _ _ (by omega), byte_put, if_pos rfl]
    simp only [write_cons, List.length_cons, read, hb, ih]

/-- A string read has the length asked for. -/
theorem Memory.length_of_read (n : Nat) :
    ∀ (m : Memory) (off : Nat) (bs : List Byte), m.read off n = some bs → bs.length = n := by
  induction n with
  | zero => intro m off bs h; simp only [read, Option.some.injEq] at h; subst h; rfl
  | succ n ih =>
    intro m off bs h
    simp only [read] at h
    split at h
    · next b bs' _ h2 =>
      simp only [Option.some.injEq] at h
      subst h
      simp [ih _ _ _ h2]
    · exact absurd h (by simp)

/-- A string read, byte by byte. -/
theorem Memory.read_eq_some_iff (n : Nat) :
    ∀ (m : Memory) (off : Nat) (bs : List Byte),
      m.read off n = some bs ↔ bs.length = n ∧ ∀ i, i < n → m.byte (off + i) = bs[i]? := by
  induction n with
  | zero =>
    intro m off bs
    simp only [read, Option.some.injEq, Nat.not_lt_zero, false_implies, implies_true, and_true, List.length_eq_zero_iff]
    exact eq_comm
  | succ n ih =>
    intro m off bs
    cases bs with
    | nil =>
      simp only [read, List.length_nil]
      split <;> simp
    | cons b bs =>
      have key : m.read off (n + 1) = some (b :: bs) ↔ m.byte off = some b ∧ m.read (off + 1) n = some bs := by
        simp only [read]
        split
        · next b' bs' h1 h2 => simp [h1, h2]
        · next h =>
          simp only [reduceCtorEq, false_iff, not_and]
          intro h1 h2
          exact h b bs h1 h2
      rw [key, ih]
      simp only [List.length_cons, Nat.add_right_cancel_iff]
      constructor
      · rintro ⟨h1, h2, h3⟩
        refine ⟨h2, fun i hi => ?_⟩
        cases i with
        | zero => simpa using h1
        | succ i =>
          rw [show off + (i + 1) = off + 1 + i by omega, h3 i (by omega)]
          simp
      · rintro ⟨h1, h2⟩
        refine ⟨by simpa using h2 0 (by omega), h1, fun i hi => ?_⟩
        have := h2 (i + 1) (by omega)
        rw [show off + (i + 1) = off + 1 + i by omega] at this
        simpa using this

/-- A part of a string read is that part of it. -/
theorem Memory.read_slice {m : Memory} {off n : Nat} {bs : List Byte} (h : m.read off n = some bs) {a k : Nat} (ha : a + k ≤ n) :
    m.read (off + a) k = some ((bs.drop a).take k) := by
  obtain ⟨h1, h2⟩ := (read_eq_some_iff _ _ _ _).mp h
  refine (read_eq_some_iff _ _ _ _).mpr ⟨by simp only [List.length_take, List.length_drop]; omega, fun i hi => ?_⟩
  rw [Nat.add_assoc, h2 (a + i) (by omega), List.getElem?_take_of_lt hi, List.getElem?_drop]

/-- The offsets of a memory with one more byte are its own and the new one. -/
theorem Memory.mem_put {m : Memory} {a : Nat} {b : Byte} {x : Host.Cell} (h : x ∈ Memory.put a b m) : x.1 = a ∨ x ∈ m := by
  induction m with
  | nil => simp only [put, List.mem_singleton] at h; exact .inl (by rw [h])
  | cons c m ih =>
    simp only [put] at h
    split at h
    · rcases List.mem_cons.mp h with h | h
      · exact .inl (by rw [h])
      · exact .inr h
    · split at h
      · rcases List.mem_cons.mp h with h | h
        · exact .inl (by rw [h])
        · exact .inr (List.mem_cons_of_mem _ h)
      · rcases List.mem_cons.mp h with h | h
        · exact .inr (by rw [h]; exact List.mem_cons_self)
        · exact (ih h).imp id (List.mem_cons_of_mem _)

/-- Writing one byte keeps the canonical form. -/
theorem Memory.wf_put {m : Memory} (a : Nat) (b : Byte) (h : Memory.wf m) : Memory.wf (Memory.put a b m) := by
  induction m with
  | nil => simp [put, wf]
  | cons c m ih =>
    obtain ⟨hc, hm⟩ := List.pairwise_cons.mp h
    simp only [put]
    split
    · refine List.pairwise_cons.mpr ⟨fun x hx => ?_, h⟩
      rcases List.mem_cons.mp hx with rfl | hx
      · assumption
      · have := hc x hx; omega
    · split
      · next heq => exact List.pairwise_cons.mpr ⟨fun x hx => by have := hc x hx; simp only; omega, hm⟩
      · refine List.pairwise_cons.mpr ⟨fun x hx => ?_, ih hm⟩
        rcases mem_put hx with hx | hx
        · omega
        · exact hc x hx

/-- Writing a byte string keeps the canonical form. -/
theorem Memory.wf_write (bs : List Byte) : ∀ {m : Memory} (off : Nat), Memory.wf m → Memory.wf (m.write off bs) := by
  induction bs with
  | nil => intro m off h; exact h
  | cons b bs ih => intro m off h; exact ih (off + 1) (wf_put off b h)

/-- The memory of a single byte string is canonical. -/
theorem Memory.wf_ofBytes (off : Nat) (bs : List Byte) : Memory.wf (Memory.write [] off bs) := wf_write bs off List.Pairwise.nil

end Sys2Proof.Machine
end

