-- ==== Sys2Proof/Laws/State.lean ====
section
/-! SUPPORT. The small lemmas of the updates of State: one per field per update. Those of the updates tagged `simps` in the model are made
at their definitions (`State.log_trace`, `State.call_trace`, `takeLinkFault_txState`, …); here are the ones over the whole environment, and of the
updates that depend on a flag. -/

namespace Sys2Proof.Machine

/-! ## The environment after each named call -/

@[simp] theorem callBegin_env (cfg : ModemConfig) (s : State) : (callBegin cfg s).env = s.env.popLinkStatus := rfl
@[simp] theorem callBusVoltage_env (s : State) : (callBusVoltage s).env = s.env.popBusVoltage := rfl
@[simp] theorem callPacketInfo_env (s : State) : (callPacketInfo s).env = s.env.popSnr.popRssi := rfl
@[simp] theorem callEnable_env (s : State) : (callEnable s).env = s.env.popEnable := rfl
@[simp] theorem enterSending_env (s : State) : (enterSending s).env = s.env.popTimeOnAir := rfl
@[simp] theorem markStarted_env (s : State) : (markStarted s).env = s.env.popNow := rfl
@[simp] theorem loadCallsign_env (s : State) : (loadCallsign s).env = s.env.popCallsign := rfl

/-- NOW never decreases (10_state.md R62). -/
theorem Env.now_le_readNow (e : Env) : e.now ≤ e.readNow := Nat.le_add_right _ _

/-! ## The receive-ready event -/

/-- The receive-ready event changes DATA_RX alone (60_exceptions.md R330). -/
theorem receiveReady_eq (s : State) : receiveReady s = { s with dataRx := s.dataRx || (s.rxLineEn && s.intEn) } := by
  obtain ⟨⟩ := s
  simp only [receiveReady, isrRx]
  split <;> simp_all

@[simp] theorem receiveReady_dataRx (s : State) : (receiveReady s).dataRx = (s.dataRx || (s.rxLineEn && s.intEn)) := by
  rw [receiveReady_eq]

/-! ## The log of a result -/

/-- Logging a result changes TRACE alone (41_commands.md R182). -/
theorem logResult_eq (r : TxResult) (s : State) : logResult r s = { s with trace := (logResult r s).trace } := by
  cases r <;> rfl

@[simp] theorem logResult_env (r : TxResult) (s : State) : (logResult r s).env = s.env := by cases r <;> rfl
@[simp] theorem logResult_par (r : TxResult) (s : State) : (logResult r s).par = s.par := by cases r <;> rfl
@[simp] theorem logResult_idBuf (r : TxResult) (s : State) : (logResult r s).idBuf = s.idBuf := by cases r <;> rfl
@[simp] theorem logResult_idLen (r : TxResult) (s : State) : (logResult r s).idLen = s.idLen := by cases r <;> rfl
@[simp] theorem logResult_rxBuf (r : TxResult) (s : State) : (logResult r s).rxBuf = s.rxBuf := by cases r <;> rfl
@[simp] theorem logResult_rxLen (r : TxResult) (s : State) : (logResult r s).rxLen = s.rxLen := by cases r <;> rfl
@[simp] theorem logResult_txBuf (r : TxResult) (s : State) : (logResult r s).txBuf = s.txBuf := by cases r <;> rfl
@[simp] theorem logResult_txLen (r : TxResult) (s : State) : (logResult r s).txLen = s.txLen := by cases r <;> rfl
@[simp] theorem logResult_intEn (r : TxResult) (s : State) : (logResult r s).intEn = s.intEn := by cases r <;> rfl
@[simp] theorem logResult_dataRx (r : TxResult) (s : State) : (logResult r s).dataRx = s.dataRx := by cases r <;> rfl
@[simp] theorem logResult_switchModem (r : TxResult) (s : State) : (logResult r s).switchModem = s.switchModem := by cases r <;> rfl
@[simp] theorem logResult_rxLineEn (r : TxResult) (s : State) : (logResult r s).rxLineEn = s.rxLineEn := by cases r <;> rfl
@[simp] theorem logResult_curCfg (r : TxResult) (s : State) : (logResult r s).curCfg = s.curCfg := by cases r <;> rfl
@[simp] theorem logResult_restoreCfg (r : TxResult) (s : State) : (logResult r s).restoreCfg = s.restoreCfg := by cases r <;> rfl
@[simp] theorem logResult_restorePending (r : TxResult) (s : State) : (logResult r s).restorePending = s.restorePending := by
  cases r <;> rfl
@[simp] theorem logResult_txState (r : TxResult) (s : State) : (logResult r s).txState = s.txState := by cases r <;> rfl
@[simp] theorem logResult_txOverride (r : TxResult) (s : State) : (logResult r s).txOverride = s.txOverride := by cases r <;> rfl
@[simp] theorem logResult_txTimeout (r : TxResult) (s : State) : (logResult r s).txTimeout = s.txTimeout := by cases r <;> rfl
@[simp] theorem logResult_txT0 (r : TxResult) (s : State) : (logResult r s).txT0 = s.txT0 := by cases r <;> rfl
@[simp] theorem logResult_txLastBeat (r : TxResult) (s : State) : (logResult r s).txLastBeat = s.txLastBeat := by cases r <;> rfl
@[simp] theorem logResult_txResult (r : TxResult) (s : State) : (logResult r s).txResult = s.txResult := by cases r <;> rfl
@[simp] theorem logResult_txPendingResult (r : TxResult) (s : State) : (logResult r s).txPendingResult = s.txPendingResult := by
  cases r <;> rfl
@[simp] theorem logResult_txStarted (r : TxResult) (s : State) : (logResult r s).txStarted = s.txStarted := by cases r <;> rfl
@[simp] theorem logResult_txExitNeeded (r : TxResult) (s : State) : (logResult r s).txExitNeeded = s.txExitNeeded := by
  cases r <;> rfl
@[simp] theorem logResult_intSave (r : TxResult) (s : State) : (logResult r s).intSave = s.intSave := by cases r <;> rfl
@[simp] theorem logResult_rxCmd (r : TxResult) (s : State) : (logResult r s).rxCmd = s.rxCmd := by cases r <;> rfl
@[simp] theorem logResult_fault (r : TxResult) (s : State) : (logResult r s).fault = s.fault := by cases r <;> rfl

/-! ## The heartbeat of a poll -/

/-- A poll's heartbeat changes TRACE and TX_LASTBEAT at most (43_transmit_fsm.md R272). -/
theorem pollHeartbeat_eq (t last : Nat) (s : State) :
    pollHeartbeat t last s
      = { s with
          trace := if elapsedAtLeast t last s.par.hbPeriod then s.trace ++ [.call .watchdog .heartbeat] else s.trace
          txLastBeat := if elapsedAtLeast t last s.par.hbPeriod then .holds t else s.txLastBeat } := by
  unfold pollHeartbeat
  split <;> simp [State.call]

end Sys2Proof.Machine
end

