-- ==== Sys2Proof/Laws/Ops.lean ====
section
/-! SUPPORT. What each shared operation can do, said once: the flow of a step, register and byte reads, `setModem`, the encoder and the
transmit request. -/

namespace Sys2Proof.Machine

/-! ## The flow of a step -/

@[simp] theorem Flow.andThen_run (s : State) (k : State → Flow) : (Flow.run s).andThen k = k s := rfl
@[simp] theorem Flow.andThen_ended (s : State) (k : State → Flow) : (Flow.ended s).andThen k = .ended s := rfl
@[simp] theorem Flow.state_run (s : State) : (Flow.run s).state = s := rfl
@[simp] theorem Flow.state_ended (s : State) : (Flow.ended s).state = s := rfl
@[simp] theorem raiseFault_state (f : Fault) (s : State) : (raiseFault f s).state = s.raise f := rfl

/-- A step's outcome is always a next state, the one its flow leaves. -/
theorem Flow.outcome_eq_next_iff (f : Flow) (t : State) : f.outcome = .next t ↔ f.state = t := by
  simp [outcome]

@[simp] theorem Reg.read_holds {α : Type} (a : α) : (Reg.holds a).read = .ok a := rfl
@[simp] theorem Reg.read_unwritten {α : Type} (a : α) : (Reg.unwritten a).read = .error .unwritten := rfl
@[simp] theorem Reg.use_holds {α : Type} (a : α) (s : State) (k : α → Flow) : (Reg.holds a).use s k = k a := rfl
@[simp] theorem Reg.use_unwritten {α : Type} (s : State) (a : α) (k : α → Flow) : (Reg.unwritten a).use s k = raiseFault .unwritten s := rfl
@[simp] theorem Reg.isWritten_holds {α : Type} (a : α) : (Reg.holds a).isWritten = true := rfl
@[simp] theorem Reg.isWritten_unwritten {α : Type} (a : α) : (Reg.unwritten a).isWritten = false := rfl
@[simp] theorem Reg.value_holds {α : Type} (a : α) : (Reg.holds a).value = a := rfl
@[simp] theorem Reg.value_unwritten {α : Type} (a : α) : (Reg.unwritten a).value = a := rfl

/-- A register reads as a value exactly when it has been written with it (10_state.md R48). -/
theorem Reg.read_ok_iff {α : Type} (r : Reg α) (a : α) : r.read = .ok a ↔ r = .holds a := by
  cases r <;> simp

/-- A written register holds a value. -/
theorem Reg.isWritten_iff {α : Type} (r : Reg α) : r.isWritten = true ↔ ∃ a, r = .holds a := by
  cases r <;> simp

@[simp] theorem withBytes_ok (bs : List Byte) (s : State) (k : List Byte → Flow) : withBytes (.ok bs) s k = k bs := rfl
@[simp] theorem withBytes_error (f : Fault) (s : State) (k : List Byte → Flow) : withBytes (.error f) s k = raiseFault f s := rfl

/-! ## Reads of the byte spaces -/

/-- A fetch succeeds exactly within the bound, on bytes that are there (20_memory.md R72; 10_state.md R48). -/
theorem Memory.fetch_ok_iff (m : Memory) (bound off n : Nat) (bs : List Byte) :
    m.fetch bound off n = .ok bs ↔ off + n ≤ bound ∧ m.read off n = some bs := by
  unfold Memory.fetch
  split
  · next h => simp [Nat.not_le.mpr h]
  · next h => cases m.read off n <;> simp [Nat.not_lt.mp h]

/-- The identifier reads as `id` exactly when ID_LEN is its length and its bytes are in IDS (10_state.md R31). -/
theorem readId_ok_iff (s : State) (id : List Byte) :
    readId s = .ok id ↔ s.idLen = .holds id.length ∧ s.idBuf.read 0 id.length = some id := by
  unfold readId
  cases hl : s.idLen with
  | unwritten _ => simp [Except.bind]
  | holds n =>
    simp only [Reg.read_holds, Except.bind, memRead, hl, Memory.fetch_ok_iff, Nat.zero_add, Nat.le_refl, true_and, Reg.holds.injEq]
    constructor
    · intro h
      have hn := Memory.length_of_read _ _ _ _ h
      exact ⟨hn.symm, by rw [hn, h]⟩
    · rintro ⟨rfl, h⟩
      exact h

/-- Reading the identifier looks at ID and ID_LEN alone. -/
theorem readId_congr {s t : State} (hl : t.idLen = s.idLen) (hb : t.idBuf = s.idBuf) : readId t = readId s := by
  simp only [readId, memRead, hl, hb]

/-- The received bytes are those of RXBUF below RXLEN (10_state.md R32). -/
theorem readReceived_ok_iff (s : State) (rx : List Byte) : readReceived s = .ok rx ↔ s.rxBuf.read 0 s.rxLen = some rx := by
  simp only [readReceived, memRead, Memory.fetch_ok_iff, Nat.zero_add, Nat.le_refl, true_and]

/-- The frame to send is the bytes of TXBUF below TXLEN (10_state.md R33). -/
theorem readTransmit_ok_iff (s : State) (bs : List Byte) : readTransmit s = .ok bs ↔ s.txBuf.read 0 s.txLen = some bs := by
  simp only [readTransmit, memRead, Memory.fetch_ok_iff, Nat.zero_add, Nat.le_refl, true_and]

/-! ## Writing a frame -/

/-- A frame of a legal identifier and legal data fits TXBUF (20_memory.md R73). -/
theorem frame_fits {id d : List Byte} {c : Byte} (hi : id.length ≤ Config.idMax) (hd : d.length ≤ Config.optMax) :
    (frame id c d).length ≤ Config.frameMax := by
  rw [frame_length]
  unfold frameLength Config.frameMax
  unfold Config.idMax at hi
  unfold Config.optMax at hd
  omega

/-- The state with a frame stored in TXBUF (40_codec.md R152). -/
def stored (bytes : List Byte) (s : State) : State := { s with txBuf := s.txBuf.write 0 bytes, txLen := bytes.length }

/-- What `memWrite` can do (00_scope.md R15; 20_memory.md R73): record CodecBounds, or write one space from the offset up. -/
theorem memWrite_cases (sp : Space) (off : Nat) (bytes : List Byte) (s : State) :
    (sp.capacity < off + bytes.length ∧ memWrite sp off bytes s = .ended (s.raise .codecBounds))
    ∨ (off + bytes.length ≤ sp.capacity
      ∧ ((sp = .rx ∧ memWrite sp off bytes s = .run { s with rxBuf := s.rxBuf.write off bytes })
        ∨ (sp = .tx ∧ memWrite sp off bytes s = .run { s with txBuf := s.txBuf.write off bytes })
        ∨ (sp = .ids ∧ memWrite sp off bytes s = .run { s with idBuf := s.idBuf.write off bytes }))) := by
  unfold memWrite
  split
  · next h => exact .inl ⟨h, rfl⟩
  · next h =>
    refine .inr ⟨Nat.not_lt.mp h, ?_⟩
    cases sp
    · exact .inl ⟨rfl, rfl⟩
    · exact .inr (.inl ⟨rfl, rfl⟩)
    · exact .inr (.inr ⟨rfl, rfl⟩)

/-- What `storeTransmit` does (20_memory.md R73). -/
theorem storeTransmit_eq (bytes : List Byte) (s : State) :
    storeTransmit bytes s = if Config.frameMax < bytes.length then raiseFault .codecBounds s else .run (stored bytes s) := by
  simp only [storeTransmit, memWrite, Space.capacity, Nat.zero_add]
  split <;> rfl

/-- A stored byte string reads back as the frame to send. -/
theorem readTransmit_stored (bytes : List Byte) (s : State) : readTransmit (stored bytes s) = .ok bytes :=
  (readTransmit_ok_iff _ _).mpr (Memory.read_write_same _ _ _)

/-- `encodeResponse` under the identifier's and the payload's bounds (40_codec.md R152). -/
theorem encodeResponse_run {s : State} {id d : List Byte} (r : Byte) (h : readId s = .ok id) (hi : id.length ≤ Config.idMax)
    (hd : d.length ≤ Config.optMax) : encodeResponse r d s = .run (stored (frame id r d) s) := by
  simp only [encodeResponse, Nat.not_lt.mpr hd, if_false, h, withBytes_ok, storeTransmit_eq, Nat.not_lt.mpr (frame_fits hi hd)]

/-- What `encodeResponse` can do: store the frame, or record CodecBounds or Unwritten with nothing written (40_codec.md R152). -/
theorem encodeResponse_cases (r : Byte) (d : List Byte) (s : State) :
    (∃ id, readId s = .ok id ∧ d.length ≤ Config.optMax ∧ (frame id r d).length ≤ Config.frameMax
      ∧ encodeResponse r d s = .run (stored (frame id r d) s))
    ∨ ∃ f, encodeResponse r d s = .ended (s.raise f) := by
  unfold encodeResponse
  split
  · exact .inr ⟨_, rfl⟩
  · next hd =>
    cases h : readId s with
    | error f => exact .inr ⟨f, rfl⟩
    | ok id =>
      rw [withBytes_ok, storeTransmit_eq]
      split
      · exact .inr ⟨_, rfl⟩
      · next hf => exact .inl ⟨id, rfl, Nat.not_lt.mp hd, Nat.not_lt.mp hf, rfl⟩

/-! ## The transmit request -/

/-- The state in which a transmission has been requested (41_commands.md R183). -/
def requested (ov : Bool) (s : State) : State := { s with txOverride := ov, txState := .preparing, seqPhase := .rxTx }

/-- What `requestTransmit` does (41_commands.md R183; 43_transmit_fsm.md R262). -/
theorem requestTransmit_eq (ov : Bool) (s : State) :
    requestTransmit ov s = if s.txState = .idle then .run (requested ov s) else .ended (s.raise .txReentry) := rfl

/-- `respond` while the FSM is idle: the frame is stored and its transmission requested (41_commands.md R180). -/
theorem respond_run {s : State} {id d : List Byte} (r : Byte) (h : readId s = .ok id) (hi : id.length ≤ Config.idMax)
    (hd : d.length ≤ Config.optMax) (ht : s.txState = .idle) :
    respond r d s = .run (requested false (stored (frame id r d) s)) := by
  have ht' : (stored (frame id r d) s).txState = .idle := ht
  simp only [respond, encodeResponse_run r h hi hd, Flow.andThen_run, requestTransmit_eq, ht', if_true]

/-- What `respond` can do: store and request, record TxReentry with the frame stored, or record a fault with nothing stored. -/
theorem respond_cases (r : Byte) (d : List Byte) (s : State) :
    (∃ id, readId s = .ok id ∧ d.length ≤ Config.optMax ∧ (frame id r d).length ≤ Config.frameMax
      ∧ ((s.txState = .idle ∧ respond r d s = .run (requested false (stored (frame id r d) s)))
        ∨ (s.txState ≠ .idle ∧ respond r d s = .ended ((stored (frame id r d) s).raise .txReentry))))
    ∨ ∃ f, respond r d s = .ended (s.raise f) := by
  rcases encodeResponse_cases r d s with ⟨id, h1, h2, h3, h4⟩ | ⟨f, h⟩
  · refine .inl ⟨id, h1, h2, h3, ?_⟩
    by_cases ht : s.txState = .idle
    · have ht' : (stored (frame id r d) s).txState = .idle := ht
      exact .inl ⟨ht, by simp only [respond, h4, Flow.andThen_run, requestTransmit_eq, ht', if_true]⟩
    · have ht' : (stored (frame id r d) s).txState ≠ .idle := ht
      exact .inr ⟨ht, by simp only [respond, h4, Flow.andThen_run, requestTransmit_eq, ht', if_false]⟩
  · exact .inr ⟨f, by simp [respond, h]⟩

/-! ## The link manager -/

/-- What `setModem` can do (42_link_manager.md R233): CUR_CFG written after an OK, or the fatal entry after a failure. -/
theorem setModem_cases (cfg : ModemConfig) (s : State) :
    (s.env.linkStatus = .ok ∧ setModem cfg s = .run { callBegin cfg s with curCfg := .holds cfg })
    ∨ ∃ k, s.env.linkStatus = .err k ∧ setModem cfg s = .ended (takeLinkFault k (callBegin cfg s)) := by
  unfold setModem
  cases s.env.linkStatus with
  | ok => exact .inl ⟨rfl, rfl⟩
  | err k => exact .inr ⟨k, rfl, rfl⟩

/-- `setModem` when the driver answers OK. -/
theorem setModem_ok {s : State} (cfg : ModemConfig) (h : s.env.linkStatus = .ok) :
    setModem cfg s = .run { callBegin cfg s with curCfg := .holds cfg } := by
  simp [setModem, h]

/-- `setModem` when the driver fails (60_exceptions.md R340). -/
theorem setModem_err {s : State} (cfg : ModemConfig) {k : LinkErr} (h : s.env.linkStatus = .err k) :
    setModem cfg s = .ended (takeLinkFault k (callBegin cfg s)) := by
  simp [setModem, h]

/-! ## A step -/

/-- A step is the step of the agent whose turn it is (00_scope.md R8). -/
theorem step_eq (s : State) : step s = turnStep (nextTurn s).1 (nextTurn s).2 := rfl

/-- Taking a turn off the schedule changes the schedule alone. -/
theorem nextTurn_eq (s : State) :
    (nextTurn s).2 = { s with env := { s.env with schedule := s.env.schedule.tail } } := by
  obtain ⟨_, env⟩ := s
  obtain ⟨schedule⟩ := env
  cases schedule <;> rfl

/-- SEQ's turn in a state without faults is the step of its phase. -/
theorem seqStep_noFault {s : State} (h : s.fault = []) : seqStep s = phaseStep s := by
  simp [seqStep, h]

/-- SEQ's turn in a fault state answers the first fault (60_exceptions.md R322). -/
theorem seqStep_fault {s : State} {f : Fault} {fs : List Fault} (h : s.fault = f :: fs) : seqStep s = .fault f := by
  simp [seqStep, h]

end Sys2Proof.Machine
end

