-- ==== Sys2Proof/Laws/Commands.lean ====
section
/-! SUPPORT. What the meanings of the commands can do, said once for each: the telemetry reads and logs, the private handler, and the outcome
of every arm of `exec`. -/

namespace Sys2Proof.Machine

/-! ## Telemetry -/

/-- What the reads of the further system-info fields do (41_commands.md R205): `n` readings, each recorded, each quantized. -/
theorem readFields_eq (n : Nat) :
    ∀ (k : Nat) (s : State), ∃ vs : List RealValue, vs.length = n
      ∧ (readFields k n s).1 = List.zipWith Config.fieldQuantizer (List.range' k n) (vs.map RealValue.floorMul)
      ∧ (readFields k n s).2
        = { s with
            trace := s.trace ++ List.zipWith (fun k x => Event.call (Config.fieldSource k) (.readField k x)) (List.range' k n) vs
            env := (readFields k n s).2.env }
      ∧ (readFields k n s).2.env.schedule = s.env.schedule ∧ (readFields k n s).2.env.now = s.env.now := by
  induction n with
  | zero => intro k s; exact ⟨[], rfl, rfl, by simp [readFields], rfl, rfl⟩
  | succ n ih =>
    intro k s
    obtain ⟨vs, h1, h2, h3, h4, h5⟩ := ih (k + 1) (s.call (.readField k s.env.fieldRead) s.env.popFieldRead)
    refine ⟨s.env.fieldRead :: vs, by simp [h1], ?_, ?_, h4, h5⟩
    · simp only [readFields, h2, List.range'_succ, List.map_cons, List.zipWith_cons_cons]
    · simp only [readFields, List.range'_succ, List.zipWith_cons_cons]
      rw [h3]
      simp [State.call]

/-- What the logs of the system-info bytes do (41_commands.md R205). -/
theorem logFields_eq (bs : List Byte) :
    ∀ (k : Nat) (s : State), logFields k bs s
      = { s with
          trace := s.trace ++ List.zipWith (fun k b => Event.log (.sysInfoField k b)) (List.range' k bs.length) bs } := by
  induction bs with
  | nil => intro k s; simp [logFields]
  | cons b bs ih =>
    intro k s
    simp only [logFields, ih, List.length_cons, List.range'_succ, List.zipWith_cons_cons]
    simp [State.log]

/-- What the telemetry reads do (41_commands.md R205): the bus voltage, then the further fields. -/
theorem telemetry_eq (s : State) (h : 1 ≤ s.par.nSysInfo) :
    ∃ vs : List RealValue, vs.length = s.par.nSysInfo - 1
      ∧ (telemetry s).1
        = quantizeVoltage s.par s.env.busVoltage :: List.zipWith Config.fieldQuantizer (List.range' 1 (s.par.nSysInfo - 1)) (vs.map RealValue.floorMul)
      ∧ (telemetry s).2
        = { s with
            trace := s.trace ++ .call .sensors (.readBusVoltage s.env.busVoltage)
              :: List.zipWith (fun k x => Event.call (Config.fieldSource k) (.readField k x)) (List.range' 1 (s.par.nSysInfo - 1)) vs
            env := (telemetry s).2.env }
      ∧ (telemetry s).2.env.schedule = s.env.schedule ∧ (telemetry s).2.env.now = s.env.now := by
  obtain ⟨vs, h1, h2, h3, h4, h5⟩ := readFields_eq (s.par.nSysInfo - 1) 1 (callBusVoltage s)
  refine ⟨vs, h1, ?_, ?_, h4, h5⟩
  · simp only [telemetry, h2]
    refine List.take_of_length_le ?_
    simp only [List.length_cons, List.length_zipWith, List.length_map, List.length_range', h1]
    omega
  · simp only [telemetry]
    rw [h3]
    simp [callBusVoltage, State.call]

/-- Whatever N_SYSINFO is, the telemetry reads change TRACE and take answers, nothing else, and give at most N_SYSINFO bytes. -/
theorem telemetry_frame (s : State) :
    (telemetry s).2 = { s with trace := (telemetry s).2.trace, env := (telemetry s).2.env }
      ∧ s.trace <+: (telemetry s).2.trace
      ∧ (telemetry s).2.env.schedule = s.env.schedule ∧ (telemetry s).2.env.now = s.env.now
      ∧ (telemetry s).1.length ≤ s.par.nSysInfo := by
  obtain ⟨vs, h1, h2, h3, h4, h5⟩ := readFields_eq (s.par.nSysInfo - 1) 1 (callBusVoltage s)
  refine ⟨?_, ?_, h4, h5, ?_⟩
  · simp only [telemetry]
    rw [h3]
    simp [callBusVoltage, State.call]
  · simp only [telemetry]
    rw [h3]
    simp [callBusVoltage, State.call, List.append_assoc]
  · simp only [telemetry, List.length_take]
    omega

/-! ## Packet info -/

@[simp] theorem byteOrAny_schedule (lo hi a : Int) (e : Env) : (byteOrAny lo hi a e).2.schedule = e.schedule := by
  unfold byteOrAny; split <;> rfl
@[simp] theorem byteOrAny_now (lo hi a : Int) (e : Env) : (byteOrAny lo hi a e).2.now = e.now := by
  unfold byteOrAny; split <;> rfl

/-- The draws of the packet-info bytes touch neither the schedule nor the time, and there are two bytes. -/
theorem packetInfo_frame (s : State) :
    (packetInfo s).2.schedule = s.env.schedule ∧ (packetInfo s).2.now = s.env.now ∧ (packetInfo s).1.length = 2 := by
  simp [packetInfo, snrByte, rssiByte]

/-! ## The private handler -/

/-- A handler under a well-formed binding answers at most 128 bytes (41_commands.md R214). -/
theorem handlerAnswer_fits {h : HandlerBinding} (hf : h.payloadsFit = true) {f : Byte} {d : List Byte} {r : Byte × List Byte}
    (ha : handlerAnswer h f d = some r) : r.2.length ≤ Config.optMax := by
  cases h with
  | table rows =>
    simp only [handlerAnswer, Option.map_eq_some_iff] at ha
    obtain ⟨a, h1, rfl⟩ := ha
    simp only [HandlerBinding.payloadsFit, List.all_eq_true, decide_eq_true_eq] at hf
    exact hf a (List.mem_of_find?_eq_some h1)
  | free k =>
    simp only [handlerAnswer, Option.map_eq_some_iff] at ha
    obtain ⟨a, _, rfl⟩ := ha
    simp only [List.length_take]
    omega

/-! ## The outcome of every arm -/

/-- The state in which TRANSMIT_SYSTEM_INFO answers (41_commands.md R205). -/
def telemetryLogged (s : State) : State :=
  logFields 0 (telemetry (s.selectCmd .transmitSystemInfo)).1 (telemetry (s.selectCmd .transmitSystemInfo)).2

/-- The state in which GET_LAST_PACKET_INFO answers (41_commands.md R207). -/
def packetInfoRead (s : State) : State :=
  (callPacketInfo (s.selectCmd .getLastPacketInfo)).withEnv (packetInfo (s.selectCmd .getLastPacketInfo)).2

/-- Up to its answer TRANSMIT_SYSTEM_INFO has written RX_CMD, extended TRACE and taken answers, nothing else (41_commands.md R205). -/
theorem telemetryLogged_eq (s : State) :
    telemetryLogged s
      = { s with rxCmd := .holds .transmitSystemInfo, trace := (telemetryLogged s).trace, env := (telemetryLogged s).env } := by
  obtain ⟨f, -⟩ := telemetry_frame (s.selectCmd .transmitSystemInfo)
  have key : ∀ b : State, b = { s.selectCmd .transmitSystemInfo with trace := b.trace, env := b.env } →
      ∀ bs k, logFields k bs b
        = { s with rxCmd := .holds .transmitSystemInfo, trace := (logFields k bs b).trace, env := (logFields k bs b).env } := by
    intro b hb bs k
    rw [logFields_eq, hb]
    rfl
  exact key _ f _ _

/-- What an instruction does when it runs, as the flow of one of the four shapes of command: an answer, a silent end, or an override. -/
theorem exec_eq (i : Instr) (s : State) :
    (∃ r d s1, exec i s = (respond r d s1).outcome
      ∧ ((i.command = .ping ∧ r = s.par.respPong ∧ d = [] ∧ s1 = s.selectCmd i.command)
        ∨ (i.command = .retransmit ∧ r = s.par.respRepeatedMessage ∧ d = i.data ∧ s1 = s.selectCmd i.command)
        ∨ (i.command = .transmitSystemInfo ∧ r = s.par.respSystemInfo
            ∧ d = (telemetry (s.selectCmd .transmitSystemInfo)).1 ∧ s1 = telemetryLogged s)
        ∨ (i.command = .getLastPacketInfo ∧ r = s.par.respPacketInfo
            ∧ d = (packetInfo (s.selectCmd .getLastPacketInfo)).1 ∧ s1 = packetInfoRead s)
        ∨ (∃ f, i.command = .privateCmd f ∧ handlerAnswer s.par.handler f i.data = some (r, d) ∧ s1 = s.selectCmd i.command)))
    ∨ (∃ e, exec i s = .next (silentEnd e (s.selectCmd i.command))
      ∧ ((i.command = .retransmitCustom ∧ e = .commandPrecondition ∧ customAccepted s.par i.data = false)
        ∨ (∃ f, i.command = .unknown f ∧ e = .unknownFunction f)
        ∨ (∃ f, i.command = .privateCmd f ∧ e = .privateFrame f ∧ handlerAnswer s.par.handler f i.data = none)))
    ∨ (i.command = .retransmitCustom ∧ customAccepted s.par i.data = true
      ∧ exec i s = (applyCustom i.data (s.selectCmd .retransmitCustom)).outcome) := by
  cases i with
  | ping d => exact .inl ⟨_, _, _, rfl, .inl ⟨rfl, rfl, rfl, rfl⟩⟩
  | retransmit d => exact .inl ⟨_, _, _, rfl, .inr (.inl ⟨rfl, rfl, rfl, rfl⟩)⟩
  | retransmitCustom d =>
    by_cases h : customAccepted s.par d = true
    · exact .inr (.inr ⟨rfl, h, by simp only [exec, execRetransmitCustom, h, if_true]; rfl⟩)
    · have h' : customAccepted s.par d = false := by simpa using h
      exact .inr (.inl ⟨_, by simp only [exec, execRetransmitCustom, h', Bool.false_eq_true, if_false]; rfl, .inl ⟨rfl, rfl, h'⟩⟩)
  | transmitSystemInfo d => exact .inl ⟨_, _, _, rfl, .inr (.inr (.inl ⟨rfl, rfl, rfl, rfl⟩))⟩
  | getLastPacketInfo d => exact .inl ⟨_, _, _, rfl, .inr (.inr (.inr (.inl ⟨rfl, rfl, rfl, rfl⟩)))⟩
  | unknown f d => exact .inr (.inl ⟨_, rfl, .inr (.inl ⟨f, rfl, rfl⟩)⟩)
  | privateCmd f d =>
    cases h : handlerAnswer s.par.handler f d with
    | none => exact .inr (.inl ⟨_, by simp only [exec, execPrivate, h]; rfl, .inr (.inr ⟨f, rfl, rfl, h⟩)⟩)
    | some r => exact .inl ⟨r.1, r.2, _, by simp only [exec, execPrivate, h]; rfl, .inr (.inr (.inr (.inr ⟨f, rfl, h, rfl⟩)))⟩

/-- What an accepted RETRANSMIT_CUSTOM can do (41_commands.md R195): stop on an unwritten CUR_CFG, take the LinkFault, or go on to the encoder
with the override in force. -/
theorem applyCustom_cases (d : List Byte) (s : State) :
    (s.curCfg.isWritten = false ∧ applyCustom d s = .ended (s.raise .unwritten))
    ∨ ∃ cur, s.curCfg = .holds cur
      ∧ ((∃ k, s.env.linkStatus = .err k
          ∧ applyCustom d s = .ended (takeLinkFault k
              (callBegin (cfgFromCustom s.par d) { s with restoreCfg := .holds cur, restorePending := true })))
        ∨ (s.env.linkStatus = .ok
          ∧ applyCustom d s
            = (encodeResponse s.par.respRepeatedMessageCustom (echoOf d)
                { callBegin (cfgFromCustom s.par d) { s with restoreCfg := .holds cur, restorePending := true } with
                  curCfg := .holds (cfgFromCustom s.par d) }).andThen (requestTransmit true))) := by
  cases h : s.curCfg with
  | unwritten _ => exact .inl ⟨rfl, by simp [applyCustom, h, raiseFault]⟩
  | holds cur =>
    refine .inr ⟨cur, rfl, ?_⟩
    cases hl : s.env.linkStatus with
    | err k => exact .inl ⟨k, rfl, by simp [applyCustom, h, setModem, hl]⟩
    | ok => exact .inr ⟨rfl, by simp [applyCustom, h, setModem, hl]⟩

/-- Every instruction answers a next state (the faults it meets are recorded in it, log 10). -/
theorem exec_isNext (i : Instr) (s : State) : ∃ t, exec i s = .next t := by
  rcases exec_eq i s with ⟨r, d, s1, h, _⟩ | ⟨e, h, _⟩ | ⟨_, _, h⟩
  · exact ⟨_, h⟩
  · exact ⟨_, h⟩
  · exact ⟨_, h⟩

end Sys2Proof.Machine
end

