-- ==== Sys2Proof/Laws/PerInstr.lean ====
section
/-! SUPPORT. Per-instruction families: `Layout`, where the frame of each instruction holds its function identifier, its length and its data
(30_encoding.md R101). -/

namespace Sys2Proof.Laws

/-- The layout of an instruction's frame, under every binding and identifier (30_encoding.md R101, R103). -/
def Layout.Statement (i : Instr) : Prop :=
  ∀ (p : Params) (id : List Byte),
    (encode p id i).length = frameLength id.length i.data.length
      ∧ (encode p id i).getD id.length 0 = i.functionId p
      ∧ (encode p id i).getD (id.length + 1) 0 = BitVec.ofNat 8 i.data.length
      ∧ (encode p id i).drop (id.length + 2) = i.data

/-- Every instruction's frame has the one layout. -/
theorem layout_encode (i : Instr) : Layout.Statement i := fun p id =>
  ⟨frame_length id (i.functionId p) i.data, frame_code id _ _, frame_lengthByte id _ _, frame_data id _ _⟩

theorem Layout.ping (d : List Byte) : Layout.Statement (.ping d) := layout_encode _
theorem Layout.retransmit (d : List Byte) : Layout.Statement (.retransmit d) := layout_encode _
theorem Layout.retransmitCustom (d : List Byte) : Layout.Statement (.retransmitCustom d) := layout_encode _
theorem Layout.transmitSystemInfo (d : List Byte) : Layout.Statement (.transmitSystemInfo d) := layout_encode _
theorem Layout.getLastPacketInfo (d : List Byte) : Layout.Statement (.getLastPacketInfo d) := layout_encode _
theorem Layout.unknown (f : Byte) (d : List Byte) : Layout.Statement (.unknown f d) := layout_encode _
theorem Layout.privateCmd (f : Byte) (d : List Byte) : Layout.Statement (.privateCmd f d) := layout_encode _

end Sys2Proof.Laws
end

