-- ==== Sys2Proof/Laws/Reals.lean ====
section
/-! SUPPORT. Real numbers as plain data: every value stands for a real, and scaling it by a rational is scaling that real. -/

namespace Sys2Proof.Machine

/-- A rational as plain data stands for that rational. -/
theorem isCutOf_rational (q : Rat) : IsCutOf (RealValue.rational q).floorMul (q : ℝ) := fun c => by
  rw [← Rat.cast_mul, Rat.floor_cast]
  rfl

/-- Every real number as plain data stands for a real number (00_scope.md R11). -/
theorem exists_real (v : RealValue) : ∃ x : ℝ, IsCutOf v.floorMul x := by
  cases v with
  | rational q => exact ⟨q, isCutOf_rational q⟩
  | named k =>
    cases hk : Config.freeReal k with
    | ofRational q => exact ⟨q, fun c => by rw [← isCutOf_rational q c]; simp only [RealValue.floorMul, hk]⟩
    | ofReal f h =>
      obtain ⟨x, hx⟩ := h
      exact ⟨x, fun c => by rw [← hx c]; simp only [RealValue.floorMul, hk]⟩

/-- Scaling a value scales the real it stands for. -/
theorem isCutOf_scaled {v : RealValue} {x : ℝ} (h : IsCutOf v.floorMul x) (m : Rat) : IsCutOf (scaled v m) (x * m) := fun c => by
  rw [scaled, h, Rat.cast_mul, mul_assoc]

/-- The real a value stands for is determined by it. -/
theorem isCutOf_unique {f : Rat → Int} {x y : ℝ} (hx : IsCutOf f x) (hy : IsCutOf f y) : x = y := by
  by_contra hne
  wlog hlt : x < y generalizing x y
  · exact this hy hx (Ne.symm hne) (lt_of_le_of_ne (not_lt.mp hlt) (Ne.symm hne))
  obtain ⟨n, hn⟩ := exists_nat_gt (1 / (y - x))
  have hn' : 1 < (y - x) * n := by
    rw [div_lt_iff₀ (by linarith)] at hn
    linarith
  have e : ⌊x * (((n : Rat) : ℝ))⌋ = ⌊y * (((n : Rat) : ℝ))⌋ := by rw [← hx, ← hy]
  have h1 := Int.lt_floor_add_one (x * (((n : Rat) : ℝ)))
  have h2 := Int.floor_le (y * (((n : Rat) : ℝ)))
  rw [e] at h1
  have h3 := Int.lt_floor_add_one (y * (((n : Rat) : ℝ)))
  have h4 := Int.floor_le (x * (((n : Rat) : ℝ)))
  rw [e] at h4
  push_cast at *
  nlinarith

end Sys2Proof.Machine
end

