-- ==== Sys2Proof/Laws/Receive.lean ====
section
/-! SUPPORT. RxDecode on the block's own spaces and the decoder on byte strings are the same function: `decodeHeader` read byte by byte is the
decoder's header, and the extracted data are its slice. -/

namespace Sys2Proof.Machine

/-! ## Reads of parts of a string -/

/-- A part of the received bytes is a MemRead of RX (20_memory.md R72). -/
theorem memRead_rx {s : State} {rx : List Byte} (h : readReceived s = .ok rx) {off n : Nat} (hn : off + n ≤ rx.length) :
    memRead .rx off n s = .ok ((rx.drop off).take n) := by
  have hr := (readReceived_ok_iff _ _).mp h
  have hl := Memory.length_of_read _ _ _ _ hr
  have := Memory.read_slice hr (a := off) (k := n) (by omega)
  rw [Nat.zero_add] at this
  exact (Memory.fetch_ok_iff _ _ _ _ _).mpr ⟨by omega, this⟩

/-- A part of the identifier is a MemRead of IDS. -/
theorem memRead_ids {s : State} {id : List Byte} (h : readId s = .ok id) {off n : Nat} (hn : off + n ≤ id.length) :
    memRead .ids off n s = .ok ((id.drop off).take n) := by
  obtain ⟨h1, h2⟩ := (readId_ok_iff _ _).mp h
  have := Memory.read_slice h2 (a := off) (k := n) hn
  rw [Nat.zero_add] at this
  simp only [memRead, h1, Reg.read_holds, Except.bind]
  exact (Memory.fetch_ok_iff _ _ _ _ _).mpr ⟨hn, this⟩

/-- The number of received bytes is RXLEN. -/
theorem length_of_readReceived {s : State} {rx : List Byte} (h : readReceived s = .ok rx) : rx.length = s.rxLen :=
  Memory.length_of_read _ _ _ _ ((readReceived_ok_iff _ _).mp h)

theorem headD_drop_take (bs : List Byte) (i : Nat) : ((bs.drop i).take 1).headD 0 = bs.getD i 0 := by
  rw [List.getD_eq_getElem?_getD, ← List.head?_drop]
  cases bs.drop i <;> rfl

theorem memReadByte_rx {s : State} {rx : List Byte} (h : readReceived s = .ok rx) {i : Nat} (hi : i < rx.length) :
    memReadByte .rx i s = .ok (rx.getD i 0) := by
  simp only [memReadByte, memRead_rx h (show i + 1 ≤ rx.length from hi), Except.map, headD_drop_take]

theorem memReadByte_ids {s : State} {id : List Byte} (h : readId s = .ok id) {i : Nat} (hi : i < id.length) :
    memReadByte .ids i s = .ok (id.getD i 0) := by
  simp only [memReadByte, memRead_ids h (show i + 1 ≤ id.length from hi), Except.map, headD_drop_take]

/-! ## decodeHeader -/

/-- Step 1 of decodeHeader is the comparison of the decoder (40_codec.md R141). -/
theorem compareIdentifier_eq {s : State} {id rx : List Byte} (hid : readId s = .ok id) (hrx : readReceived s = .ok rx) (n : Nat) :
    ∀ i, i + n ≤ id.length → compareIdentifier i n s = .ok (identifierMatches ((id.drop i).take n) (rx.drop i)) := by
  induction n with
  | zero => intro i _; simp [compareIdentifier, identifierMatches]
  | succ n ih =>
    intro i hi
    have hl := length_of_readReceived hrx
    have hd : id.drop i = id.getD i 0 :: id.drop (i + 1) := by
      rw [List.drop_eq_getElem_cons (by omega), List.getD_eq_getElem _ _ (by omega)]
    unfold compareIdentifier
    by_cases hr : s.rxLen ≤ i
    · rw [if_pos hr, hd, List.take_succ_cons, List.drop_eq_nil_of_le (as := rx) (by omega)]
      rfl
    · have hdr : rx.drop i = rx.getD i 0 :: rx.drop (i + 1) := by
        rw [List.drop_eq_getElem_cons (by omega), List.getD_eq_getElem _ _ (by omega)]
      rw [if_neg hr, memReadByte_rx hrx (by omega), memReadByte_ids hid (by omega), hd, hdr, List.take_succ_cons, identifierMatches]
      simp only [bind, Except.bind, ih (i + 1) (by omega)]
      split
      · next he => rw [decide_eq_true he, Bool.true_and]
      · next he => rw [decide_eq_false he, Bool.false_and]

/-- decodeHeader on the block's spaces is the decoder's header (40_codec.md R141). -/
theorem readHeader_eq {s : State} {id rx : List Byte} (hid : readId s = .ok id) (hrx : readReceived s = .ok rx) :
    readHeader s = .ok (decodeHeader id rx) := by
  have hl := length_of_readReceived hrx
  have hc := compareIdentifier_eq hid hrx (id.length - 1) 0 (by omega)
  simp only [List.drop_zero] at hc
  have hi := ((readId_ok_iff _ _).mp hid).1
  simp only [readHeader, hi, Reg.read_holds, hc, bind, Except.bind, decodeHeader, comparedId]
  by_cases hm : identifierMatches (id.take (id.length - 1)) rx = true
  case neg =>
    rw [Bool.not_eq_true] at hm
    simp only [hm, Bool.false_eq_true, if_false, if_true]
  case pos =>
    simp only [hm, if_true, Bool.true_eq_false, if_false, readLengths, ← hl]
    split
    · rfl
    · next h =>
      rw [memReadByte_rx hrx (by omega), memReadByte_rx hrx (by omega)]
      simp only [bind, Except.bind]
      split
      · rfl
      · split <;> rfl

/-- The data extracted under a decoded header are the decoder's slice (40_codec.md R147), with no fault. -/
theorem extractOptionalData_eq {s : State} {id rx : List Byte} {h : Header} (hrx : readReceived s = .ok rx)
    (hd : decodeHeader id rx = .ok h) : extractOptionalData h.dataOffset h.dataLength s = .ok (optionalDataOf rx h) := by
  obtain ⟨_, _, h3, h4, rfl⟩ := (decodeHeader_ok_iff _ _ _).mp hd
  unfold frameLength at h4
  simp only [extractOptionalData, Nat.not_lt.mpr h3, if_false, optionalDataOf]
  exact memRead_rx hrx (by omega)

/-- Reading a space does not depend on TRACE. -/
@[simp] theorem extractOptionalData_countFrame (off n : Nat) (m : ModemType) (v : Bool) (s : State) :
    extractOptionalData off n (countFrame m v s) = extractOptionalData off n s := rfl

/-! ## RxDecode -/

/-- RxDecode with its identifier, its received bytes and CUR_CFG readable (40_codec.md R160, R163): the decoder's error is logged or its
instruction executed. -/
theorem rxDecode_of_reads {s : State} {id rx : List Byte} {cfg : ModemConfig} (hid : readId s = .ok id) (hrx : readReceived s = .ok rx)
    (hc : s.curCfg = .holds cfg) :
    rxDecode s
      = match decode s.par id rx with
        | .error e => .next (silentEnd (decodeErrorLog e) (countFrame cfg.modemType false s))
        | .ok i => exec i (countFrame cfg.modemType true s) := by
  unfold rxDecode decode
  rw [readHeader_eq hid hrx, hc, Reg.read_holds]
  cases hd : decodeHeader id rx with
  | error e => rfl
  | ok h => simp only [dispatchFrame, extractOptionalData_countFrame, extractOptionalData_eq hrx hd]; rfl

/-- Everything RxDecode can do (40_codec.md R160): record a fault before or after the counter call, log a decode error, or execute an
instruction. -/
theorem rxDecode_next {s t : State} (h : rxDecode s = .next t) :
    (∃ f, t = s.raise f)
    ∨ ∃ cfg, s.curCfg = .holds cfg
      ∧ ((∃ e, t = silentEnd (decodeErrorLog e) (countFrame cfg.modemType false s))
        ∨ (∃ f, t = (countFrame cfg.modemType true s).raise f)
        ∨ ∃ i, exec i (countFrame cfg.modemType true s) = .next t) := by
  unfold rxDecode at h
  split at h
  · cases h; exact .inl ⟨_, rfl⟩
  · cases h; exact .inl ⟨_, rfl⟩
  · next hc => cases h; exact .inr ⟨_, (Reg.read_ok_iff _ _).mp hc, .inl ⟨_, rfl⟩⟩
  · next hc =>
    refine .inr ⟨_, (Reg.read_ok_iff _ _).mp hc, .inr ?_⟩
    unfold dispatchFrame at h
    split at h
    · cases h; exact .inl ⟨_, rfl⟩
    · exact .inr ⟨_, h⟩

end Sys2Proof.Machine
end

