-- ==== Sys2Proof/Laws/Transmit.lean ====
section
/-! SUPPORT. What each step of the transmit FSM can do, said once. -/

namespace Sys2Proof.Machine

/-- What Preparing can do (43_transmit_fsm.md R265 to R268): refuse, keep the override, switch the modem, take the LinkFault, or stop on an
unwritten CUR_CFG. -/
theorem prepareStep_cases (s : State) :
    (s.env.enable = false ∧ prepareStep s = .run (refuseDisabled (callEnable s)))
    ∨ (s.env.enable = true ∧ s.txOverride = true
      ∧ prepareStep s = .run (enterSending (suspendReception (callEnable s))))
    ∨ (s.env.enable = true ∧ s.txOverride = false ∧ s.curCfg.isWritten = false
      ∧ prepareStep s = .ended ((suspendReception (callEnable s)).raise .unwritten))
    ∨ ∃ cur, s.env.enable = true ∧ s.txOverride = false ∧ s.curCfg = .holds cur
      ∧ ((s.env.popEnable.linkStatus = .ok
          ∧ prepareStep s = .run (enterSending
              { callBegin s.par.loraDefault { suspendReception (callEnable s) with restoreCfg := .holds cur, restorePending := true } with
                curCfg := .holds s.par.loraDefault }))
        ∨ ∃ k, s.env.popEnable.linkStatus = .err k
          ∧ prepareStep s = .ended (takeLinkFault k
              (callBegin s.par.loraDefault { suspendReception (callEnable s) with restoreCfg := .holds cur, restorePending := true }))) := by
  cases he : s.env.enable with
  | false => exact .inl ⟨rfl, by simp [prepareStep, he]⟩
  | true =>
    refine .inr ?_
    cases ho : s.txOverride with
    | true => exact .inl ⟨rfl, rfl, by simp [prepareStep, he, switchForTransmit, ho]⟩
    | false =>
      refine .inr ?_
      cases hc : s.curCfg with
      | unwritten _ => exact .inl ⟨rfl, rfl, rfl, by simp [prepareStep, he, switchForTransmit, ho, hc, raiseFault]⟩
      | holds cur =>
        refine .inr ⟨cur, rfl, rfl, rfl, ?_⟩
        cases hl : s.env.popEnable.linkStatus with
        | ok => exact .inl ⟨rfl, by simp [prepareStep, he, switchForTransmit, ho, hc, setModem, hl]⟩
        | err k => exact .inr ⟨k, rfl, by simp [prepareStep, he, switchForTransmit, ho, hc, setModem, hl]⟩

/-- The state after the startTransmit call (43_transmit_fsm.md R269). -/
def callStart (buf : List Byte) (s : State) : State :=
  s.call (.startTransmit buf s.txLen s.env.startStatus) s.env.popStartStatus

/-- What the start sub-step can do (43_transmit_fsm.md R269, R270). -/
theorem startStep_cases (s : State) :
    (∃ f, readTransmit s = .error f ∧ startStep s = .ended (s.raise f))
    ∨ ∃ buf, readTransmit s = .ok buf
      ∧ ((s.env.startStatus = s.par.drvOk ∧ startStep s = .run (markStarted (callStart buf s)))
        ∨ (s.env.startStatus ≠ s.par.drvOk
          ∧ startStep s = .run (settleTransmit (.startError s.env.startStatus) .rejected (callStart buf s)))) := by
  cases h : readTransmit s with
  | error f => exact .inl ⟨f, rfl, by simp [startStep, h, raiseFault]⟩
  | ok buf =>
    refine .inr ⟨buf, rfl, ?_⟩
    by_cases hs : s.env.startStatus = s.par.drvOk
    · exact .inl ⟨hs, by simp [startStep, h, hs, callStart]⟩
    · exact .inr ⟨hs, by simp [startStep, h, hs, callStart]⟩

/-- The state after a poll that found TX_DONE low has read NOW (43_transmit_fsm.md R271). -/
def polled (s : State) : State := s.withEnv s.env.popTxDone.popNow

/-- What the poll sub-step can do (43_transmit_fsm.md R271 to R274). -/
theorem pollStep_cases (s : State) :
    (s.env.txDone = true ∧ pollStep s = .run (settleTransmit .ok .done (s.withEnv s.env.popTxDone)))
    ∨ (s.env.txDone = false ∧ s.txLastBeat.isWritten = false ∧ pollStep s = .ended ((polled s).raise .unwritten))
    ∨ ∃ last, s.env.txDone = false ∧ s.txLastBeat = .holds last
      ∧ (((s.txT0.isWritten = false ∨ s.txTimeout.isWritten = false)
          ∧ pollStep s = .ended ((pollHeartbeat s.env.popTxDone.readNow last (polled s)).raise .unwritten))
        ∨ ∃ t0 timeout, s.txT0 = .holds t0 ∧ s.txTimeout = .holds timeout
          ∧ ((t0 + timeout < s.env.popTxDone.readNow
              ∧ pollStep s
                = .run (settleTransmit .txTimeout .timedOut (pollHeartbeat s.env.popTxDone.readNow last (polled s))))
            ∨ (¬ t0 + timeout < s.env.popTxDone.readNow
              ∧ pollStep s = .run (pollHeartbeat s.env.popTxDone.readNow last (polled s))))) := by
  cases hd : s.env.txDone with
  | true => exact .inl ⟨rfl, by simp [pollStep, hd]⟩
  | false =>
    refine .inr ?_
    cases hb : s.txLastBeat with
    | unwritten _ => exact .inl ⟨rfl, rfl, by simp [pollStep, hd, hb, raiseFault, polled, State.withEnv]⟩
    | holds last =>
      refine .inr ⟨last, rfl, rfl, ?_⟩
      have e0 : (pollHeartbeat s.env.popTxDone.readNow last (polled s)).txT0 = s.txT0 := by rw [pollHeartbeat_eq]; rfl
      have e1 : (pollHeartbeat s.env.popTxDone.readNow last (polled s)).txTimeout = s.txTimeout := by rw [pollHeartbeat_eq]; rfl
      have key : pollStep s
          = (pollHeartbeat s.env.popTxDone.readNow last (polled s)).txT0.use
              (pollHeartbeat s.env.popTxDone.readNow last (polled s)) fun t0 =>
              (pollHeartbeat s.env.popTxDone.readNow last (polled s)).txTimeout.use
                (pollHeartbeat s.env.popTxDone.readNow last (polled s)) fun timeout =>
                if elapsedExceeds s.env.popTxDone.readNow t0 timeout then
                  .run (settleTransmit .txTimeout .timedOut (pollHeartbeat s.env.popTxDone.readNow last (polled s)))
                else .run (pollHeartbeat s.env.popTxDone.readNow last (polled s)) := by
        simp only [pollStep, hd, Bool.false_eq_true, if_false, State.withEnv_txLastBeat, hb, Reg.use_holds]
        rfl
      rw [key, e0, e1]
      cases h0 : s.txT0 with
      | unwritten _ => exact .inl ⟨.inl rfl, rfl⟩
      | holds t0 =>
        cases h1 : s.txTimeout with
        | unwritten _ => exact .inl ⟨.inr rfl, rfl⟩
        | holds timeout =>
          refine .inr ⟨t0, timeout, rfl, rfl, ?_⟩
          by_cases ht : t0 + timeout < s.env.popTxDone.readNow
          · exact .inl ⟨ht, by simp [elapsedExceeds, ht]⟩
          · exact .inr ⟨ht, by simp [elapsedExceeds, ht]⟩

/-- The state of a restore the driver has accepted (43_transmit_fsm.md R290). -/
def restored (cfg : ModemConfig) (s : State) : State := { callBegin cfg s with curCfg := .holds cfg, restorePending := false }

/-- What a restore can do (43_transmit_fsm.md R290; 41_commands.md R182). -/
theorem restoreModem_cases (s : State) :
    (s.restoreCfg.isWritten = false ∧ restoreModem s = .ended (s.raise .unwritten))
    ∨ ∃ cfg, s.restoreCfg = .holds cfg
      ∧ ((s.env.linkStatus = .ok ∧ restoreModem s = .run (restored cfg s))
        ∨ ∃ k, s.env.linkStatus = .err k ∧ restoreModem s = .ended (takeLinkFault k (callBegin cfg s))) := by
  cases h : s.restoreCfg with
  | unwritten _ => exact .inl ⟨rfl, by simp [restoreModem, h, raiseFault]⟩
  | holds cfg =>
    refine .inr ⟨cfg, rfl, ?_⟩
    rcases setModem_cases cfg s with ⟨h1, h2⟩ | ⟨k, h1, h2⟩
    · exact .inl ⟨h1, by simp [restoreModem, h, h2, restored]⟩
    · exact .inr ⟨k, h1, by simp [restoreModem, h, h2]⟩

/-- The end of a transmission (43_transmit_fsm.md R290). -/
def finished (r : TxResult) (s : State) : State :=
  { s with txResult := .holds r, txState := .idle, seqPhase := phaseAfterTransmit s.seqPhase }

/-- The last two statements of the exit step read TX_PENDING_RESULT and end the transmission. -/
def finish (s : State) : Flow := s.txPendingResult.use s fun r => .run (finished r s)

theorem finish_cases (s : State) :
    (s.txPendingResult.isWritten = false ∧ finish s = .ended (s.raise .unwritten))
    ∨ ∃ r, s.txPendingResult = .holds r ∧ finish s = .run (finished r s) := by
  cases h : s.txPendingResult with
  | unwritten _ => exact .inl ⟨rfl, by simp [finish, h, raiseFault]⟩
  | holds r => exact .inr ⟨r, rfl, by simp [finish, h]⟩

/-- What the exit step can do (43_transmit_fsm.md R290): end at once, re-attach, restore and re-attach, or stop inside the restore. -/
theorem exitStep_cases (s : State) :
    (s.txExitNeeded = false ∧ exitStep s = finish s)
    ∨ (s.txExitNeeded = true ∧ s.restorePending = false ∧ exitStep s = finish (attachLine (s.call .standby s.env)))
    ∨ (s.txExitNeeded = true ∧ s.restorePending = true ∧ s.restoreCfg.isWritten = false
      ∧ exitStep s = .ended ((s.call .standby s.env).raise .unwritten))
    ∨ ∃ cfg, s.txExitNeeded = true ∧ s.restorePending = true ∧ s.restoreCfg = .holds cfg
      ∧ ((s.env.linkStatus = .ok ∧ exitStep s = finish (attachLine (restored cfg (s.call .standby s.env))))
        ∨ ∃ k, s.env.linkStatus = .err k
          ∧ exitStep s = .ended (takeLinkFault k (callBegin cfg (s.call .standby s.env)))) := by
  cases hx : s.txExitNeeded with
  | false => exact .inl ⟨rfl, by simp [exitStep, exitSequence, hx, finish, finished]⟩
  | true =>
    refine .inr ?_
    cases hp : s.restorePending with
    | false => exact .inl ⟨rfl, rfl, by simp [exitStep, exitSequence, hx, hp, finish, finished]⟩
    | true =>
      refine .inr ?_
      have key : exitStep s
          = ((restoreModem (s.call .standby s.env)).andThen fun s2 => .run (attachLine s2)).andThen finish := by
        simp [exitStep, exitSequence, hx, hp]
        rfl
      rw [key]
      rcases restoreModem_cases (s.call .standby s.env) with ⟨h1, h2⟩ | ⟨cfg, h1, ⟨h2, h3⟩ | ⟨k, h2, h3⟩⟩
      · exact .inl ⟨rfl, rfl, h1, by simp [h2]⟩
      · exact .inr ⟨cfg, rfl, rfl, h1, .inl ⟨h2, by simp [h3]⟩⟩
      · exact .inr ⟨cfg, rfl, rfl, h1, .inr ⟨k, h2, by simp [h3]⟩⟩

end Sys2Proof.Machine
end

