-- ==== Sys2Proof/Laws/Steps.lean ====
section
/-! SUPPORT. Everything a step can do, said once: the moves of ENV, the steps of SEQ in each phase, and the step itself. -/

namespace Sys2Proof.Machine

/-- A step that answers a next state is a move of ENV or SEQ's step in a state without faults (00_scope.md R8). -/
theorem step_next_cases {s t : State} (h : step s = .next t) :
    (∃ e, (nextTurn s).1 = .port e ∧ portStep e (nextTurn s).2 = .next t)
    ∨ ((nextTurn s).1 = .seq ∧ (nextTurn s).2.fault = [] ∧ phaseStep (nextTurn s).2 = .next t) := by
  rw [step_eq] at h
  cases ht : (nextTurn s).1 with
  | port e => exact .inl ⟨e, rfl, by rw [ht] at h; exact h⟩
  | seq =>
    rw [ht] at h
    simp only [turnStep] at h
    cases hf : (nextTurn s).2.fault with
    | nil => exact .inr ⟨rfl, rfl, by rw [seqStep_noFault hf] at h; exact h⟩
    | cons f fs => rw [seqStep_fault hf] at h; cases h

/-- A SEQ turn in a state without faults is the step of its phase. -/
theorem step_of_seqTurn {s s0 : State} (h : SeqTurn s s0) : step s = phaseStep s0 := by
  rw [step_eq, h.1]
  exact seqStep_noFault h.2

/-- An ENV turn is its move. -/
theorem step_of_portTurn {s s0 : State} {e : PortEvent} (h : PortTurn s e s0) : step s = portStep e s0 := by
  rw [step_eq, h]
  rfl

/-- Outside a transmission the invariant says the FSM is idle. -/
theorem Invariant.idle {s : State} (h : Invariant s) (hp : s.seqPhase.isTransmitting = false) : s.txState = .idle := by
  by_contra hc
  have := h.fsm.mp hc
  simp [hp] at this

/-- After boot the invariant says the identifier is readable. -/
theorem Invariant.idReady {s : State} (h : Invariant s) (hb : s.seqPhase.isBooted = true) : ∃ id, IdReady s id := by
  obtain ⟨n, hn⟩ := (Reg.isWritten_iff _).mp (h.booted hb).1
  obtain ⟨h1, h2, h3⟩ := h.identifier n hn
  obtain ⟨id, hid⟩ := Option.isSome_iff_exists.mp h3
  have hl := Memory.length_of_read _ _ _ _ hid
  exact ⟨id, (readId_ok_iff _ _).mpr ⟨by rw [hl, hn], by rw [hl, hid]⟩, by rw [hl]; exact h2⟩

/-- The state after an accepted TX_REQ (43_transmit_fsm.md R262). -/
def externalRequested (bytes : List Byte) (ov : Bool) (s : State) : State :=
  { stored bytes s with txOverride := ov, txState := .preparing, seqPhase := .extTx }

/-- What a TX_REQ that is no refusal can do (43_transmit_fsm.md R262). -/
theorem txRequest_next {s t : State} {bytes : List Byte} {ov : Bool} (h : txRequest bytes ov s = .next t) :
    s.fault = [] ∧ s.seqPhase = .idle ∧ bytes.length ≤ Config.frameMax
      ∧ ((s.txState = .idle ∧ t = externalRequested bytes ov s) ∨ (s.txState ≠ .idle ∧ t = s.raise .txReentry)) := by
  unfold txRequest at h
  split at h
  · cases h
  · next hf =>
    split at h
    · next hc =>
      refine ⟨hf, hc.1, hc.2, ?_⟩
      split at h
      · next hi =>
        rw [storeTransmit_eq, if_neg (Nat.not_lt.mpr hc.2)] at h
        cases h
        exact .inl ⟨hi, rfl⟩
      · next hi => cases h; exact .inr ⟨hi, rfl⟩
    · cases h

/-- What a MODEM_REQ that is no refusal can do (42_link_manager.md R239). -/
theorem modemRequest_next {s t : State} {cfg : ModemConfig} (h : modemRequest cfg s = .next t) :
    s.fault = [] ∧ s.seqPhase = .idle ∧ s.txState = .idle ∧ (cfg = s.par.loraDefault ∨ cfg = s.par.fskDefault)
      ∧ ((s.env.linkStatus = .ok ∧ t = { callBegin cfg s with curCfg := .holds cfg })
        ∨ ∃ k, s.env.linkStatus = .err k ∧ t = takeLinkFault k (callBegin cfg s)) := by
  unfold modemRequest at h
  split at h
  · cases h
  · next hf =>
    split at h
    · next hc =>
      split at h
      · next hv =>
        refine ⟨hf, hc.1, hc.2, hv, ?_⟩
        rcases setModem_cases cfg s with ⟨h1, h2⟩ | ⟨k, h1, h2⟩
        · rw [h2] at h; cases h; exact .inl ⟨h1, rfl⟩
        · rw [h2] at h; cases h; exact .inr ⟨k, h1, rfl⟩
      · cases h
    · cases h

/-- What a move of ENV that is no refusal can do (10_state.md R61, R64). -/
theorem portStep_next {e : PortEvent} {s t : State} (h : portStep e s = .next t) :
    (∃ bytes, e = .rxDeliver bytes ∧ bytes.length ≤ Config.frameMax
      ∧ t = receiveReady { s with rxBuf := Memory.write [] 0 bytes, rxLen := bytes.length })
    ∨ (e = .tmrEvent ∧ t = isrTmr s)
    ∨ (∃ bytes ov, e = .txReq bytes ov ∧ txRequest bytes ov s = .next t)
    ∨ (∃ cfg, e = .modemReq cfg ∧ modemRequest cfg s = .next t)
    ∨ (∃ b, e = .setIntEn b ∧ inBracket s = false ∧ t = { s with intEn := b })
    ∨ (e = .clearSwitchModem ∧ t = { s with switchModem := false })
    ∨ (e = .reset ∧ t = resetBlock s) := by
  cases e with
  | rxDeliver bytes =>
    simp only [portStep, deliver] at h
    split at h
    · cases h
    · next hl => cases h; exact .inl ⟨bytes, rfl, Nat.not_lt.mp hl, rfl⟩
  | tmrEvent => cases h; exact .inr (.inl ⟨rfl, rfl⟩)
  | txReq bytes ov => exact .inr (.inr (.inl ⟨bytes, ov, rfl, h⟩))
  | modemReq cfg => exact .inr (.inr (.inr (.inl ⟨cfg, rfl, h⟩)))
  | setIntEn b =>
    simp only [portStep] at h
    split at h
    · cases h
    · next hb => cases h; exact .inr (.inr (.inr (.inr (.inl ⟨b, rfl, by simpa using hb, rfl⟩))))
  | clearSwitchModem => cases h; exact .inr (.inr (.inr (.inr (.inr (.inl ⟨rfl, rfl⟩)))))
  | reset => cases h; exact .inr (.inr (.inr (.inr (.inr (.inr ⟨rfl, rfl⟩)))))

/-- The state after a boot whose modem the driver has accepted (70_reset_and_hazards.md R385). -/
def booted (s : State) : State :=
  { attachLine
      { callBegin (staticTable s.par s.par.bootModem) (loadCallsign s) with curCfg := .holds (staticTable s.par s.par.bootModem) } with
    intEn := true, seqPhase := .idle }

/-- What a boot step that is no refusal can do (70_reset_and_hazards.md R385). -/
theorem bootStep_next {s t : State} (h : bootStep s = .next t) :
    callsignKept s.env = true
      ∧ ((s.env.popCallsign.linkStatus = .ok ∧ t = booted s)
        ∨ ∃ k, s.env.popCallsign.linkStatus = .err k
          ∧ t = takeLinkFault k (callBegin (staticTable s.par s.par.bootModem) (loadCallsign s))) := by
  unfold bootStep at h
  split at h
  · next hk =>
    refine ⟨hk, ?_⟩
    rcases setModem_cases (staticTable s.par s.par.bootModem) (loadCallsign s) with ⟨h1, h2⟩ | ⟨k, h1, h2⟩
    · rw [h2] at h; cases h; exact .inl ⟨h1, rfl⟩
    · rw [h2] at h; cases h; exact .inr ⟨k, h1, rfl⟩
  · cases h

/-- The bytes and the length of a `getCallsign` answer that keeps the host duty (10_state.md R64). -/
theorem callsign_bounds {e : Env} (h : callsignKept e = true) :
    1 ≤ e.callsign.2 ∧ e.callsign.2 ≤ Config.idMax ∧ e.callsign.2 ≤ e.callsign.1.length := by
  unfold callsignKept at h
  unfold Env.callsign
  split at h
  · next he =>
    have hl := (Config.freeCallsign e.drawn).1.isLt
    refine ⟨?_, ?_, ?_⟩ <;> simp only [he, List.length_append, List.length_take, List.length_map, List.length_finRange, Config.idMax] <;> omega
  · next a l he =>
    simp only [he]
    simp only [Bool.and_eq_true, decide_eq_true_eq] at h
    exact ⟨h.1.1, h.1.2, h.2⟩

/-- The state after RxPost (41_commands.md R182). -/
def posted (r : TxResult) (s : State) : State := { logResult r s with seqPhase := .rxEnd }

/-- What RxPost can do (41_commands.md R182). -/
theorem rxPost_cases (s : State) :
    (rxPost s = .ended (s.raise .unwritten) ∧ (s.rxCmd.isWritten = false ∨ s.txResult.isWritten = false))
    ∨ ∃ c r, s.rxCmd = .holds c ∧ s.txResult = .holds r
      ∧ ((¬(c = .retransmitCustom ∧ r = .txDisabled ∧ s.restorePending = true) ∧ rxPost s = .run (posted r s))
        ∨ (c = .retransmitCustom ∧ r = .txDisabled ∧ s.restorePending = true
          ∧ ((s.restoreCfg.isWritten = false ∧ rxPost s = .ended (s.raise .unwritten))
            ∨ ∃ cfg, s.restoreCfg = .holds cfg
              ∧ ((s.env.linkStatus = .ok ∧ rxPost s = .run (posted r (restored cfg s)))
                ∨ ∃ k, s.env.linkStatus = .err k ∧ rxPost s = .ended (takeLinkFault k (callBegin cfg s)))))) := by
  cases hc : s.rxCmd with
  | unwritten _ => exact .inl ⟨by simp [rxPost, hc, raiseFault], .inl rfl⟩
  | holds c =>
    cases hr : s.txResult with
    | unwritten _ => exact .inl ⟨by simp [rxPost, hc, hr, raiseFault], .inr rfl⟩
    | holds r =>
      refine .inr ⟨c, r, rfl, rfl, ?_⟩
      by_cases hx : c = .retransmitCustom ∧ r = .txDisabled ∧ s.restorePending = true
      · have hx' : refusedOverride c r s = true := by simp [refusedOverride, hx.1, hx.2.1, hx.2.2]
        refine .inr ⟨hx.1, hx.2.1, hx.2.2, ?_⟩
        rcases restoreModem_cases s with ⟨h1, h2⟩ | ⟨cfg, h1, ⟨h2, h3⟩ | ⟨k, h2, h3⟩⟩
        · exact .inl ⟨h1, by simp [rxPost, hc, hr, hx', h2]⟩
        · exact .inr ⟨cfg, h1, .inl ⟨h2, by simp [rxPost, hc, hr, hx', h3, posted]⟩⟩
        · exact .inr ⟨cfg, h1, .inr ⟨k, h2, by simp [rxPost, hc, hr, hx', h3]⟩⟩
      · have hx' : refusedOverride c r s = false := by
          simp only [refusedOverride, Bool.and_eq_false_iff, decide_eq_false_iff_not]
          by_cases h1 : c = .retransmitCustom
          · by_cases h2 : r = .txDisabled
            · exact .inr (by simpa using fun h3 => hx ⟨h1, h2, h3⟩)
            · exact .inl (.inr h2)
          · exact .inl (.inl h1)
        exact .inl ⟨hx, by simp [rxPost, hc, hr, hx', posted]⟩

/-- What SEQ's step can do, by its phase (10_state.md R44). -/
theorem phaseStep_next {s t : State} (h : phaseStep s = .next t) :
    (s.seqPhase = .boot ∧ bootStep s = .next t)
    ∨ (s.seqPhase = .idle ∧ t = rxPoll s)
    ∨ (s.seqPhase = .rxAck ∧ t = rxAck s)
    ∨ (s.seqPhase = .rxDecode ∧ rxDecode s = .next t)
    ∨ ((s.seqPhase = .rxTx ∨ s.seqPhase = .extTx) ∧ t = (transmitStep s).state)
    ∨ (s.seqPhase = .rxPost ∧ t = (rxPost s).state)
    ∨ (s.seqPhase = .rxEnd ∧ t = (rxEnd s).state)
    ∨ (s.seqPhase = .halted ∧ t = s) := by
  unfold phaseStep at h
  split at h <;> simp_all [Flow.outcome]

/-- What RxEnd can do (40_codec.md R160). -/
theorem rxEnd_cases (s : State) :
    (s.intSave.isWritten = false ∧ rxEnd s = .ended (s.raise .unwritten))
    ∨ ∃ b, s.intSave = .holds b ∧ rxEnd s = .run { s with intEn := b, seqPhase := .idle } := by
  cases h : s.intSave with
  | unwritten _ => exact .inl ⟨rfl, by simp [rxEnd, h, raiseFault]⟩
  | holds b => exact .inr ⟨b, rfl, by simp [rxEnd, h]⟩

/-- What an FSM step can do, by TXSTATE (43_transmit_fsm.md R261). -/
theorem transmitStep_cases (s : State) :
    (s.txState = .preparing ∧ transmitStep s = prepareStep s)
    ∨ (s.txState = .sending ∧ s.txStarted = false ∧ transmitStep s = startStep s)
    ∨ (s.txState = .sending ∧ s.txStarted = true ∧ transmitStep s = pollStep s)
    ∨ (s.txState.isExiting = true ∧ transmitStep s = exitStep s)
    ∨ ((s.txState = .idle ∨ s.txState = .halted) ∧ transmitStep s = .run s) := by
  unfold transmitStep
  cases h : s.txState <;> cases h' : s.txStarted <;> simp [TxState.isExiting]

end Sys2Proof.Machine
end

