-- ==== Sys2Proof/Tests/Slice0.lean ====
section
/-! SUPPORT. Small tests of the model against the vectors of 95_test_vectors.md, the well-formedness smoke tests, and one named witness for
the hypotheses of every statement of Obligations.lean that has some. -/

namespace Sys2Proof.Tests

open Sys2Proof.Machine

/-! ## Small states -/

/-- A spread-spectrum table with values written out, for tests only. -/
def loraTable : ModemConfig :=
  { modemType := .lora, bandwidth := .rational 125, spreadingFactor := 9, codingRate := 7, preambleLength := 8, crcEnabled := true
    outputPower := 10, carrierFrequency := 1, syncWord := 2, currentLimit := 3 }

/-- A narrowband table with values written out, for tests only. -/
def fskTable : ModemConfig := { loraTable with modemType := .fsk, carrierFrequency := 4 }

/-- The reference binding with its open constants written out, for tests only. -/
def params : Params :=
  { Params.reference with loraDefault := loraTable, fskDefault := fskTable, fskSyncWord := 5, fskCrcLen := 6, tcxoVoltage := 7 }

/-- The state after boot of 70_reset_and_hazards.md R386, with the identifier ABCDE and CUR_CFG = LORA_DEFAULT. -/
def idle : State :=
  { State.reset with
    par := params, idBuf := Memory.write [] 0 Config.referenceId, idLen := .holds 5, curCfg := .holds loraTable
    intEn := true, rxLineEn := true, seqPhase := .idle }

/-- That state in RxDecode with the bytes received. -/
def decoding (rx : List Byte) : State :=
  { idle with
    rxBuf := Memory.write [] 0 rx, rxLen := rx.length, intEn := false, intSave := .holds true, seqPhase := .rxDecode }

/-- A transmission of the receive service in the FSM state `x`, with seven bytes to send. -/
def transmitting (x : TxState) : State :=
  { decoding [] with txBuf := Memory.write [] 0 [0x41, 0x42, 0x43, 0x44, 0x45, 0x10, 0x00], txLen := 7
                     txState := x, seqPhase := .rxTx, rxCmd := .holds .ping }

/-- Sending, with the timeout known, the modem switched and the line detached. -/
def sending : State :=
  { transmitting .sending with
    rxLineEn := false, txExitNeeded := true, restoreCfg := .holds fskTable, restorePending := true, txTimeout := .holds 1500000 }

/-- Sending, started at time 0. -/
def polling : State := { sending with txStarted := true, txT0 := .holds 0, txLastBeat := .holds 0 }

/-- A transmission with its outcome fixed. -/
def exiting (x : TxState) (r : TxResult) : State := { polling with txState := x, txPendingResult := .holds r }

/-- RxPost after a transmission of `c` with the result `r`. -/
def posting (c : Command) (r : TxResult) : State :=
  { decoding [] with seqPhase := .rxPost, rxCmd := .holds c, txResult := .holds r }

/-- A state in which ENV's next move is `e`. -/
def withMove (e : PortEvent) (s : State) : State := { s with env := { s.env with schedule := [.port e] } }

/-- The state an outcome leaves; the state after reset where it leaves none. -/
def leaves (o : Host.Outcome State Fault Refusal) : State :=
  match o with
  | .next t => t
  | .fault _ => State.reset
  | .refused _ => State.reset

/-- The frame to send in the state an outcome leaves. -/
def sends (o : Host.Outcome State Fault Refusal) : Except Fault (List Byte) := readTransmit (leaves o)

/-! ## Well-formedness smoke tests: each check refuses an ill-formed term -/

theorem test_dataFits_refuses : Instr.dataFits (.ping (List.replicate 129 0)) = false := by decide +kernel
theorem test_selectorFits_refuses_unknown : Instr.selectorFits params (.unknown 0x00 []) = false := by decide
theorem test_selectorFits_refuses_private : Instr.selectorFits params (.privateCmd 0x7F []) = false := by decide
theorem test_identifierFits_refuses : identifierFits [] = false ∧ identifierFits (List.replicate 33 0) = false := by decide
theorem test_params_refuses : ({ params with cmdPing := 0x01 } : Params).wf = false := by decide
theorem test_handler_refuses : (HandlerBinding.table [(0x80, [], 0x90, List.replicate 129 0)]).payloadsFit = false := by decide +kernel

/-! ## Decoding, from frames written out (30_encoding.md R101; 95_test_vectors.md sections 2.1 and 2.2) -/

theorem test_decode_ping : decode params Config.referenceId [0x41, 0x42, 0x43, 0x44, 0x58, 0x00, 0x00] = .ok (.ping []) := by decide
theorem test_decode_retransmit :
    decode params Config.referenceId [0x41, 0x42, 0x43, 0x44, 0x45, 0x01, 0x02, 0xAA, 0xBB] = .ok (.retransmit [0xAA, 0xBB]) := by
  decide
theorem test_decode_retransmitCustom :
    decode params Config.referenceId [0x41, 0x42, 0x43, 0x44, 0x45, 0x02, 0x01, 0x04] = .ok (.retransmitCustom [0x04]) := by decide
theorem test_decode_transmitSystemInfo :
    decode params Config.referenceId [0x41, 0x42, 0x43, 0x44, 0x45, 0x03, 0x01, 0x77] = .ok (.transmitSystemInfo [0x77]) := by decide
theorem test_decode_getLastPacketInfo :
    decode params Config.referenceId [0x41, 0x42, 0x43, 0x44, 0x45, 0x04, 0x00, 0xFF, 0xFF] = .ok (.getLastPacketInfo []) := by decide
theorem test_decode_unknown :
    decode params Config.referenceId [0x41, 0x42, 0x43, 0x44, 0x45, 0x7F, 0x01, 0x00] = .ok (.unknown 0x7F [0x00]) := by decide
theorem test_decode_private :
    decode params Config.referenceId [0x41, 0x42, 0x43, 0x44, 0x45, 0x80, 0x02, 0xDE, 0xAD] = .ok (.privateCmd 0x80 [0xDE, 0xAD]) := by
  decide
theorem test_decode_mismatch :
    decode params Config.referenceId [0x41, 0x42, 0x43, 0x45, 0x45, 0x00, 0x00] = .error .identifierMismatch
      ∧ decode params Config.referenceId [0x58, 0x42, 0x43, 0x44, 0x45, 0x01, 0xFF] = .error .identifierMismatch
      ∧ decode params Config.referenceId [] = .error .identifierMismatch := by decide
theorem test_decode_malformed :
    decode params Config.referenceId [0x41, 0x42, 0x43, 0x44] = .error .malformedLength
      ∧ decode params Config.referenceId [0x41, 0x42, 0x43, 0x44, 0x45, 0x00] = .error .malformedLength
      ∧ decode params Config.referenceId [0x41, 0x42, 0x43, 0x44, 0x45, 0x01, 0x03, 0xAA, 0xBB] = .error .malformedLength := by decide
theorem test_decode_shortest_id :
    decode params [0x41] [0x99, 0x00, 0x00] = .ok (.ping []) ∧ decode params [0x41] [] = .error .malformedLength := by decide

/-! ## The commands (95_test_vectors.md section 2.6) -/

theorem test_ping : sends (exec (.ping [0x01, 0x02]) (decoding [])) = .ok [0x41, 0x42, 0x43, 0x44, 0x45, 0x10, 0x00] := by decide
theorem test_retransmit :
    sends (exec (.retransmit [0x0A, 0x0B, 0x0C]) (decoding [])) = .ok [0x41, 0x42, 0x43, 0x44, 0x45, 0x11, 0x03, 0x0A, 0x0B, 0x0C] := by
  decide
/-- V-CMD-RC-11 and V-CMD-RC-9: power −128 dBm and the little-endian preamble 256. -/
theorem test_custom_fields :
    (cfgFromCustom params [0x04, 0x09, 0x07, 0x00, 0x01, 0x01, 0x80, 0x48]).preambleLength.toNat = 256
      ∧ (cfgFromCustom params [0x04, 0x09, 0x07, 0x00, 0x01, 0x01, 0x80, 0x48]).outputPower.toInt = -128
      ∧ (cfgFromCustom params [0x04, 0x09, 0x07, 0x00, 0x01, 0x01, 0x80, 0x48]).spreadingFactor = 9
      ∧ (cfgFromCustom params [0x04, 0x09, 0x07, 0x00, 0x01, 0x01, 0x80, 0x48]).codingRate = 7 := by decide
/-- V-CMD-RC-1: the echoed tail. -/
theorem test_custom :
    sends (exec (.retransmitCustom [0x04, 0x09, 0x07, 0x08, 0x00, 0x01, 0x0A, 0x48, 0x49])
        { decoding [] with env := { Env.silent with linkStatuses := [.ok] } })
      = .ok [0x41, 0x42, 0x43, 0x44, 0x45, 0x12, 0x02, 0x48, 0x49] := by decide +kernel
/-- V-CMD-SI-1: 3.71 V is quantized to B9. -/
theorem test_system_info :
    sends (exec (.transmitSystemInfo [0x77]) { decoding [] with env := { Env.silent with busVoltages := [.rational (371 / 100)] } })
      = .ok [0x41, 0x42, 0x43, 0x44, 0x45, 0x13, 0x01, 0xB9] := by decide +kernel
/-- V-CMD-PI-1: SNR 7.25 and RSSI −101.5. -/
theorem test_packet_info :
    sends (exec (.getLastPacketInfo []) { decoding [] with env := { Env.silent with snrs := [.rational (29 / 4)], rssis := [.rational (-203 / 2)] } })
      = .ok [0x41, 0x42, 0x43, 0x44, 0x45, 0x14, 0x02, 0x1D, 0xCB] := by decide +kernel
/-- V-CMD-PI-3 and V-CMD-PI-4: ties away from zero. -/
theorem test_rounding :
    roundReal .halfAwayFromZero (scaled (.rational (1 / 8)) 4) = 1 ∧ roundReal .halfAwayFromZero (scaled (.rational (-1 / 8)) 4) = -1
      ∧ roundReal .halfToEven (scaled (.rational (1 / 8)) 4) = 0 ∧ roundReal .halfToEven (scaled (.rational (3 / 8)) 4) = 2 := by
  decide +kernel
theorem test_unknown : (leaves (exec (.unknown 0x10 []) (decoding []))).trace = [.log (.unknownFunction 0x10)] := by decide
theorem test_private : (leaves (exec (.privateCmd 0xFF []) (decoding []))).trace = [.log (.privateFrame 0xFF)] := by decide
/-- V-CMD-PR-3: a bound handler's answer. -/
theorem test_private_answered :
    sends (exec (.privateCmd 0x80 [0xDE, 0xAD])
        { decoding [] with par := { params with handler := .table [(0x80, [0xDE, 0xAD], 0x90, [0x01])] } })
      = .ok [0x41, 0x42, 0x43, 0x44, 0x45, 0x90, 0x01, 0x01] := by decide

/-! ## The sequencer and the transmit FSM (95_test_vectors.md sections 2.8 to 2.11) -/

/-- V-FSM-P-2: a heartbeat at exactly HB_PERIOD. -/
theorem test_heartbeat :
    (leaves (step { polling with env := { Env.silent with txDones := [false], timeSteps := [1000000] } })).txLastBeat = .holds 1000000 := by
  decide
/-- V-FSM-P-3: elapsed time equal to the timeout is no timeout. -/
theorem test_poll_waits :
    (leaves (step
      { polling with txLastBeat := .holds 1000000, env := { Env.silent with txDones := [false], timeSteps := [1500000] } })).txState
      = .sending := by decide
/-- V-FSM-P-4: one microsecond more is. -/
theorem test_poll_times_out :
    (leaves (step
      { polling with txLastBeat := .holds 1000000, env := { Env.silent with txDones := [false], timeSteps := [1500001] } })).txState
      = .timedOut := by decide
/-- V-FSM-8: a refused restore halts the block with the restore still pending. -/
theorem test_exit_link_fault :
    (leaves (step { exiting .done .ok with env := { Env.silent with linkStatuses := [.err .commandFailed] } })).trace
      = [.call .radio .standby, .call .radio (.begin (applyItems params fskTable) (.err .commandFailed)), .log (.linkFault .commandFailed),
        .call .watchdog .restart] := by decide +kernel
/-- V-ISR-2: a delivery with INT_EN = 0 is lost to DATA_RX but not to RXBUF. -/
theorem test_delivery_masked :
    (leaves (step (withMove (.rxDeliver [0x41]) { idle with intEn := false }))).dataRx = false
      ∧ (leaves (step (withMove (.rxDeliver [0x41]) { idle with intEn := false }))).rxLen = 1 := by decide
/-- 10_state.md R48, R50: a register unwritten at reset holds the value of log 30, and a read of it is Unwritten. -/
theorem test_reset_unwritten :
    State.reset.idLen.value = 1 ∧ State.reset.idLen.isWritten = false ∧ readId State.reset = .error .unwritten := ⟨rfl, rfl, rfl⟩

/-- V-BOOT-2: bytes past the length are dropped. -/
theorem test_boot :
    readId (leaves (step { State.reset with
      env := { Env.silent with callsigns := [([0x41, 0x42, 0x43, 0x44, 0x45, 0xFF, 0xFF], 5)], linkStatuses := [.ok] } }))
      = .ok [0x41, 0x42, 0x43, 0x44, 0x45] := by decide
/-- V-ERR-1: an identifier mismatch in a receive service. -/
theorem test_decode_error :
    (leaves (step (decoding [0x41, 0x42, 0x43, 0x45, 0x45, 0x00, 0x00]))).trace
      = [.call .storage (.incrementFrameCounter .lora false), .log .identifierMismatch] := by decide

/-! ## Witnesses: states and operands that meet the hypotheses of the statements, clause by clause -/

theorem witness_params : params.wf = true ∧ Params.reference.wf = true := by decide +kernel

/-- DecodeOfEncode, at the largest data length and at the ends of the public and private spaces. -/
theorem witness_DecodeOfEncode :
    identifierFits Config.referenceId = true ∧ identifierFits (List.replicate 32 0) = true
      ∧ (Instr.ping (List.replicate 128 0)).wf params = true ∧ (Instr.retransmit []).wf params = true
      ∧ (Instr.retransmitCustom []).wf params = true ∧ (Instr.transmitSystemInfo []).wf params = true
      ∧ (Instr.getLastPacketInfo []).wf params = true ∧ (Instr.unknown 0x05 []).wf params = true
      ∧ (Instr.unknown 0x7F []).wf params = true ∧ (Instr.privateCmd 0x80 []).wf params = true
      ∧ (Instr.privateCmd 0xFF (List.replicate 128 0)).wf params = true := by decide +kernel

/-- DeliveredFrameRoundTrip, with another last identifier byte and the largest data, from a state with that identifier. -/
theorem witness_DeliveredFrameRoundTrip :
    identifierFits Config.referenceId = true ∧ (List.replicate 128 (0 : Byte)).length ≤ Config.optMax
      ∧ [0x41, 0x42, 0x43, 0x44, (0x00 : Byte)].length = Config.referenceId.length
      ∧ comparedId [0x41, 0x42, 0x43, 0x44, (0x00 : Byte)] = comparedId Config.referenceId
      ∧ readId idle = .ok Config.referenceId := by decide +kernel

/-- IdentifierMismatchExactly: a differing byte and a byte not received. -/
theorem witness_IdentifierMismatchExactly :
    decodeHeader Config.referenceId [0x41, 0x42, 0x43, 0x45] = .error .identifierMismatch
      ∧ decodeHeader Config.referenceId [0x41, 0x42, 0x43] = .error .identifierMismatch := by decide

/-- MalformedLengthExactly: a matching start with each of the three causes at its boundary (V-DEC-7, V-DEC-9, V-DEC-8). -/
theorem witness_MalformedLengthExactly :
    comparedId Config.referenceId <+: [0x41, 0x42, 0x43, 0x44, 0x45, 0x00]
      ∧ comparedId Config.referenceId <+: Config.referenceId ++ 0x01 :: 0x81 :: List.replicate 129 0
      ∧ comparedId Config.referenceId <+: [0x41, 0x42, 0x43, 0x44, 0x45, 0x01, 0x03, 0xAA, 0xBB] := by
  refine ⟨⟨[0x45, 0x00], rfl⟩, ⟨0x45 :: 0x01 :: 0x81 :: List.replicate 129 0, rfl⟩, ⟨[0x45, 0x01, 0x03, 0xAA, 0xBB], rfl⟩⟩

/-- TrailingBytesIgnored (V-DEC-1). -/
theorem witness_TrailingBytesIgnored :
    decode params Config.referenceId [0x41, 0x42, 0x43, 0x44, 0x45, 0x01, 0x02, 0xAA, 0xBB] = .ok (.retransmit [0xAA, 0xBB]) := by
  decide

/-- EncodeResponseInjective: both calls run and send the same frame. -/
theorem witness_EncodeResponseInjective :
    readId idle = .ok Config.referenceId
      ∧ ∃ t t', encodeResponse 0x10 [] idle = .run t ∧ encodeResponse 0x10 [] idle = .run t' ∧ readTransmit t = readTransmit t' :=
  ⟨by decide, _, _, rfl, rfl, rfl⟩

/-- SelectionFollowsTheMap: the ends of the public and the private space. -/
theorem witness_SelectionFollowsTheMap :
    (0x05 : Byte) < params.privateOffset ∧ (0x05 : Byte) ∉ params.commandIds ∧ (0x7F : Byte) < params.privateOffset
      ∧ (0x7F : Byte) ∉ params.commandIds ∧ params.privateOffset ≤ 0x80 ∧ params.privateOffset ≤ (0xFF : Byte) := by decide

/-- BoundsAreFaults: one byte past each bound, and a write that ends at it. -/
theorem witness_BoundsAreFaults :
    (decoding [0x41]).rxLen < 0 + 2 ∧ (transmitting .preparing).txLen < 7 + 1
      ∧ idle.idLen = .holds 5 ∧ 5 < 5 + 1 ∧ 128 < (List.replicate 129 (0 : Byte)).length
      ∧ 162 < 161 + ([0, 0] : List Byte).length ∧ 160 + ([0, 0] : List Byte).length ≤ 162 := by decide +kernel

/-- A SEQ turn in a state of the tests. -/
theorem seqTurn_of_silent {s : State} (h : s.env.schedule = []) (hf : s.fault = []) : SeqTurn s s :=
  ⟨by simp [nextTurn, h], hf⟩

/-- StepRunsDecodedInstruction and EveryDecodeIsCountedOnce. -/
theorem witness_StepRunsDecodedInstruction :
    let s := decoding [0x41, 0x42, 0x43, 0x44, 0x45, 0x00, 0x00]
    SeqTurn s s ∧ s.seqPhase = .rxDecode ∧ readId s = .ok Config.referenceId
      ∧ readReceived s = .ok [0x41, 0x42, 0x43, 0x44, 0x45, 0x00, 0x00] ∧ s.curCfg = .holds loraTable
      ∧ decode s.par Config.referenceId [0x41, 0x42, 0x43, 0x44, 0x45, 0x00, 0x00] = .ok (.ping [])
      ∧ ∃ t, step s = .next t :=
  ⟨seqTurn_of_silent rfl rfl, rfl, by decide, by decide, rfl, by decide, _, rfl⟩

/-- DecodeErrorIsSilent, for both errors. -/
theorem witness_DecodeErrorIsSilent :
    SeqTurn (decoding [0x41]) (decoding [0x41]) ∧ SeqTurn (decoding [0x41, 0x42, 0x43, 0x44]) (decoding [0x41, 0x42, 0x43, 0x44])
      ∧ readId (decoding [0x41]) = .ok Config.referenceId ∧ readReceived (decoding [0x41]) = .ok [0x41]
      ∧ readReceived (decoding [0x41, 0x42, 0x43, 0x44]) = .ok [0x41, 0x42, 0x43, 0x44]
      ∧ decode params Config.referenceId [0x41] = .error .identifierMismatch
      ∧ decode params Config.referenceId [0x41, 0x42, 0x43, 0x44] = .error .malformedLength :=
  ⟨seqTurn_of_silent rfl rfl, seqTurn_of_silent rfl rfl, by decide, by decide, by decide, by decide, by decide⟩

/-- ReceiveServiceBracket: its three steps. -/
theorem witness_ReceiveServiceBracket :
    SeqTurn { idle with dataRx := true } { idle with dataRx := true }
      ∧ idle.seqPhase = .idle ∧ idle.txState = .idle
      ∧ SeqTurn { idle with seqPhase := .rxAck } { idle with seqPhase := .rxAck }
      ∧ SeqTurn { decoding [] with seqPhase := .rxEnd } { decoding [] with seqPhase := .rxEnd }
      ∧ (decoding []).intSave = .holds true :=
  ⟨seqTurn_of_silent rfl rfl, rfl, rfl, seqTurn_of_silent rfl rfl, seqTurn_of_silent rfl rfl, rfl⟩

/-- A refused override, whose restore the driver accepts. -/
def refusedOverrideState : State :=
  { posting .retransmitCustom .txDisabled with
    restorePending := true, restoreCfg := .holds fskTable, env := { Env.silent with linkStatuses := [.ok] } }

/-- PostLogsAndRestores: no refused override (each part of that condition failing alone), and a refused one with either answer. -/
theorem witness_PostLogsAndRestores :
    (∀ p ∈ [(Command.ping, TxResult.txDisabled), (Command.retransmitCustom, TxResult.ok)],
        SeqTurn (posting p.1 p.2) (posting p.1 p.2) ∧ (posting p.1 p.2).seqPhase = .rxPost
          ∧ ¬(p.1 = .retransmitCustom ∧ p.2 = .txDisabled ∧ (posting p.1 p.2).restorePending = true))
      ∧ (SeqTurn refusedOverrideState refusedOverrideState ∧ refusedOverrideState.seqPhase = .rxPost
        ∧ refusedOverrideState.rxCmd = .holds .retransmitCustom ∧ refusedOverrideState.txResult = .holds .txDisabled
        ∧ refusedOverrideState.restorePending = true ∧ refusedOverrideState.restoreCfg = .holds fskTable
        ∧ refusedOverrideState.env.linkStatus = .ok
        ∧ ({ Env.silent with linkStatuses := [.err .commandFailed] } : Env).linkStatus = .err .commandFailed) := by
  refine ⟨fun p hp => ⟨seqTurn_of_silent rfl rfl, rfl, ?_⟩, seqTurn_of_silent rfl rfl, rfl, rfl, rfl, rfl, rfl, rfl, rfl⟩
  rintro ⟨_, _, h⟩
  simp [posting, decoding, idle, State.reset, State.afterReset] at h

/-- The identifier is ready and the FSM idle: PingAnswersEmptyPong, and with the operands below the other answering commands. -/
theorem witness_PingAnswersEmptyPong : IdReady (decoding []) Config.referenceId ∧ (decoding []).txState = .idle :=
  ⟨⟨by decide, by decide⟩, rfl⟩

/-- RetransmitEchoesVerbatim at both ends of the data length. -/
theorem witness_RetransmitEchoesVerbatim :
    IdReady (decoding []) Config.referenceId ∧ (decoding []).txState = .idle ∧ ([] : List Byte).length ≤ Config.optMax
      ∧ (List.replicate 128 (0 : Byte)).length ≤ Config.optMax :=
  ⟨witness_PingAnswersEmptyPong.1, rfl, by decide, by decide +kernel⟩

/-- The operands of V-CMD-RC-3 (8 bytes, CRC on) and of a 39-byte form with bandwidth 7 and CRC off. -/
def customShort : List Byte := [0x04, 0x09, 0x07, 0x08, 0x00, 0x01, 0x0A, 0x48]
def customLong : List Byte := [0x07, 0x0C, 0x05, 0x10, 0x00, 0x00, 0x14] ++ List.replicate 32 0x5A

/-- CustomAppliesAndEchoes at both ends of the length and both CRC values. -/
theorem witness_CustomAppliesAndEchoes :
    let s := { decoding [] with env := { Env.silent with linkStatuses := [.ok] } }
    (IdReady s Config.referenceId ∧ s.txState = .idle ∧ s.curCfg = .holds loraTable ∧ s.env.linkStatus = .ok)
      ∧ (8 ≤ customShort.length ∧ customShort.length ≤ 39 ∧ (customShort.getD 0 0).toNat ≤ 7 ∧ customShort.getD 5 0 = 1
        ∧ configAccepts s.par.loraCfgValid (cfgFromCustom s.par customShort) = true)
      ∧ (8 ≤ customLong.length ∧ customLong.length ≤ 39 ∧ (customLong.getD 0 0).toNat ≤ 7 ∧ customLong.getD 5 0 = 0
        ∧ configAccepts s.par.loraCfgValid (cfgFromCustom s.par customLong) = true) :=
  ⟨⟨⟨by decide, by decide⟩, rfl, rfl, rfl⟩, by decide +kernel, by decide +kernel⟩

/-- CustomSkipsSilently: each cause at its boundary (V-CMD-RC-2, -6, -5, -8, -14). -/
theorem witness_CustomSkipsSilently :
    ([0x04, 0x09, 0x07, 0x08, 0x00, 0x01, 0x0A] : List Byte).length < 8 ∧ 39 < (List.replicate 40 (0 : Byte)).length
      ∧ 7 < (([0x08, 0x09, 0x07, 0x08, 0x00, 0x01, 0x0A, 0x48] : List Byte).getD 0 0).toNat
      ∧ (([0x04, 0x09, 0x07, 0x08, 0x00, 0x02, 0x0A, 0x48] : List Byte).getD 5 0 ≠ 0
        ∧ ([0x04, 0x09, 0x07, 0x08, 0x00, 0x02, 0x0A, 0x48] : List Byte).getD 5 0 ≠ 1)
      ∧ configAccepts (.rejecting [cfgFromCustom params customShort]) (cfgFromCustom params customShort) = false := by
  decide +kernel

/-- CustomLinkFaultHalts (V-CMD-RC-16). -/
theorem witness_CustomLinkFaultHalts :
    (decoding []).curCfg = .holds loraTable ∧ customAccepted (decoding []).par customShort = true
      ∧ ({ Env.silent with linkStatuses := [.err .commandInvalid] } : Env).linkStatus = .err .commandInvalid := by decide +kernel

/-- CustomOperandFields at both ends of the bandwidth index and of the power byte's sign. -/
theorem witness_CustomOperandFields :
    (customLong.getD 0 0).toNat ≤ 7 ∧ (([0x00] : List Byte).getD 0 0).toNat ≤ 7
      ∧ (([0, 0, 0, 0, 0, 0, 0x7F] : List Byte).getD 6 0).toNat < 128 ∧ ¬(([0, 0, 0, 0, 0, 0, 0x80] : List Byte).getD 6 0).toNat < 128 := by
  decide +kernel

/-- SystemInfoSendsTelemetry at both ends of N_SYSINFO, and its quantizer at both clamps. -/
theorem witness_SystemInfoSendsTelemetry :
    (IdReady (decoding []) Config.referenceId ∧ (decoding []).txState = .idle
      ∧ (1 ≤ params.nSysInfo ∧ params.nSysInfo ≤ Config.optMax)
      ∧ (1 ≤ ({ params with nSysInfo := 128 } : Params).nSysInfo ∧ ({ params with nSysInfo := 128 } : Params).nSysInfo ≤ Config.optMax))
      ∧ (params.quantizer = .reference ∧ params.voltageMultiplier ≠ 0)
      ∧ IsCutOf (RealValue.rational (-1)).floorMul (((-1 : Rat) : ℝ)) ∧ quantizeVoltage params (.rational (-1)) = 0
      ∧ quantizeVoltage params (.rational 6) = 255 :=
  ⟨⟨witness_PingAnswersEmptyPong.1, rfl, by decide, by decide⟩, ⟨rfl, by decide +kernel⟩, isCutOf_rational _, by decide +kernel,
    by decide +kernel⟩

/-- PacketInfoSendsReadings: readings at the ends of the two ranges (V-CMD-PI-5, V-CMD-PI-6). -/
theorem witness_PacketInfoSendsReadings :
    IdReady (decoding []) Config.referenceId ∧ (decoding []).txState = .idle
      ∧ roundReal params.round (scaled (.rational (-32)) 4) = -128 ∧ roundReal params.round (scaled (.rational (127 / 4)) 4) = 127
      ∧ roundReal params.round (scaled (.rational 0) (-2)) = 0 ∧ roundReal params.round (scaled (.rational (-255 / 2)) (-2)) = 255 :=
  ⟨witness_PingAnswersEmptyPong.1, rfl, by decide +kernel, by decide +kernel, by decide +kernel, by decide +kernel⟩

/-- RoundingIsLegal: an integer, and a tie under both written roundings. -/
theorem witness_RoundingIsLegal :
    IsCutOf (RealValue.rational 3).floorMul ((3 : Int) : ℝ)
      ∧ IsCutOf (RealValue.rational (1 / 2)).floorMul (((1 / 2 : Rat) : ℝ))
      ∧ |((roundReal .halfAwayFromZero (RealValue.rational (1 / 2)).floorMul : Int) : ℝ) - ((1 / 2 : Rat) : ℝ)| = 1 / 2
      ∧ |((roundReal .halfToEven (RealValue.rational (1 / 2)).floorMul : Int) : ℝ) - ((1 / 2 : Rat) : ℝ)| = 1 / 2 := by
  refine ⟨by exact_mod_cast isCutOf_rational 3, isCutOf_rational _, ?_, ?_⟩
  · rw [show roundReal .halfAwayFromZero (RealValue.rational (1 / 2)).floorMul = 1 by decide +kernel]
    norm_num
  · rw [show roundReal .halfToEven (RealValue.rational (1 / 2)).floorMul = 0 by decide +kernel]
    norm_num

/-- A handler that answers, for PrivateGoesToTheHandler and PlainResponderFrame. -/
def answering : HandlerBinding := .table [(0x80, [], 0x90, [0x01])]

theorem witness_PrivateGoesToTheHandler :
    handlerAnswer params.handler 0x80 [] = none ∧ handlerAnswer answering 0x80 [] = some (0x90, [0x01])
      ∧ ([0x01] : List Byte).length ≤ Config.optMax
      ∧ IdReady { decoding [] with par := { params with handler := answering } } Config.referenceId :=
  ⟨rfl, rfl, by decide, by decide, by decide⟩

/-- PlainResponderFrame, TelemetryFrame, CustomFrame, OnlyCustomChangesModem: every instruction answers a next state. -/
theorem witness_PlainResponderFrame :
    (Instr.ping []).command = .ping ∧ (Instr.retransmit []).command = .retransmit
      ∧ handlerAnswer answering 0x80 (Instr.privateCmd 0x80 []).data = some (0x90, [0x01])
      ∧ (Instr.privateCmd 0x80 []).command = .privateCmd 0x80
      ∧ ∀ i : Instr, ∃ t, exec i (decoding []) = .next t :=
  ⟨rfl, rfl, rfl, rfl, fun i => exec_isNext i _⟩
theorem witness_TelemetryFrame :
    (Instr.transmitSystemInfo []).command = .transmitSystemInfo ∧ (Instr.getLastPacketInfo []).command = .getLastPacketInfo
      ∧ (∃ t, exec (.transmitSystemInfo []) (decoding []) = .next t) ∧ ∃ t, exec (.getLastPacketInfo []) (decoding []) = .next t :=
  ⟨rfl, rfl, ⟨_, rfl⟩, ⟨_, rfl⟩⟩
theorem witness_CustomFrame : ∃ t, exec (.retransmitCustom customShort) (decoding []) = .next t := exec_isNext _ _
theorem witness_OnlyCustomChangesModem :
    (Instr.ping []).command ≠ .retransmitCustom ∧ ∃ t, exec (.ping []) (decoding []) = .next t := ⟨by decide, _, rfl⟩

/-- SetModemFollowsTheDriver: both answers. -/
theorem witness_SetModemFollowsTheDriver :
    ({ Env.silent with linkStatuses := [.ok] } : Env).linkStatus = .ok
      ∧ ({ Env.silent with linkStatuses := [.err .chipNotFound] } : Env).linkStatus = .err .chipNotFound := ⟨rfl, rfl⟩
theorem witness_ApplyListOrder : loraTable.modemType = .lora ∧ fskTable.modemType = .fsk := ⟨rfl, rfl⟩

/-- An accepted MODEM_REQ for the narrowband table. -/
def switching : State := withMove (.modemReq fskTable) { idle with env := { Env.silent with linkStatuses := [.ok] } }

/-- CurCfgOnlyBySetModem: a step that changes CUR_CFG. -/
theorem witness_CurCfgOnlyBySetModem : ∃ t, step switching = .next t ∧ t.curCfg ≠ switching.curCfg := by
  refine ⟨_, rfl, ?_⟩
  decide +kernel

/-- ModemRequestOnlySwitches: the four clauses. -/
theorem witness_ModemRequestOnlySwitches :
    (∃ s0, PortTurn switching (.modemReq fskTable) s0 ∧ s0.fault = [] ∧ s0.seqPhase = .idle ∧ s0.txState = .idle
        ∧ fskTable = s0.par.fskDefault ∧ s0.env.linkStatus = .ok)
      ∧ (∃ s s0, PortTurn s (.modemReq loraTable) s0 ∧ s0.fault = [] ∧ s0.seqPhase = .idle ∧ s0.txState = .idle
        ∧ loraTable = s0.par.loraDefault ∧ s0.env.linkStatus = .err .commandFailed)
      ∧ (∃ s s0, PortTurn s (.modemReq fskTable) s0 ∧ s0.fault = [] ∧ ¬(s0.seqPhase = .idle ∧ s0.txState = .idle))
      ∧ (∃ s s0, PortTurn s (.modemReq { fskTable with syncWord := 9 }) s0 ∧ s0.fault = [] ∧ s0.seqPhase = .idle ∧ s0.txState = .idle
        ∧ { fskTable with syncWord := 9 } ≠ s0.par.loraDefault ∧ { fskTable with syncWord := 9 } ≠ s0.par.fskDefault) :=
  ⟨⟨_, rfl, rfl, rfl, rfl, rfl, rfl⟩,
    ⟨withMove (.modemReq loraTable) { idle with env := { Env.silent with linkStatuses := [.err .commandFailed] } },
      _, rfl, rfl, rfl, rfl, rfl, rfl⟩,
    ⟨withMove (.modemReq fskTable) (decoding []), _, rfl, rfl, by simp [withMove, decoding]⟩,
    ⟨withMove (.modemReq { fskTable with syncWord := 9 }) idle, _, rfl, rfl, rfl, rfl, by decide +kernel, by decide +kernel⟩⟩

/-- TxRequestStartsTransmission at the largest length. -/
theorem witness_TxRequestStartsTransmission :
    ∃ s s0, PortTurn s (.txReq (List.replicate 162 0) true) s0 ∧ s0.fault = [] ∧ s0.seqPhase = .idle ∧ s0.txState = .idle
      ∧ (List.replicate 162 (0 : Byte)).length ≤ 162 :=
  ⟨withMove (.txReq (List.replicate 162 0) true) idle, _, rfl, rfl, rfl, rfl, Nat.le_of_eq List.length_replicate⟩

/-- A SEQ turn of the FSM in a state of the tests. -/
theorem txTurn_of_silent {s : State} {x : TxState} (h : s.env.schedule = []) (hf : s.fault = []) (hp : s.seqPhase = .rxTx)
    (hx : s.txState = x) : TxTurn s x s := ⟨seqTurn_of_silent h hf, .inl hp, hx⟩

theorem witness_PreparingRefusesWhenDisabled :
    let s := { transmitting .preparing with env := { Env.silent with enables := [false] } }
    TxTurn s .preparing s ∧ s.env.enable = false := ⟨txTurn_of_silent rfl rfl rfl rfl, rfl⟩
theorem witness_PreparingSwitchesModem :
    ∀ r ∈ [LinkStatus.ok, .err .chipNotFound],
      let s := { transmitting .preparing with env := { Env.silent with enables := [true], linkStatuses := [r] } }
      TxTurn s .preparing s ∧ s.env.enable = true ∧ s.txOverride = false ∧ s.curCfg = .holds loraTable
        ∧ s.env.popEnable.linkStatus = r := fun _ _ => ⟨txTurn_of_silent rfl rfl rfl rfl, rfl, rfl, rfl, rfl⟩
theorem witness_PreparingKeepsOverride :
    let s := { transmitting .preparing with txOverride := true, env := { Env.silent with enables := [true] } }
    TxTurn s .preparing s ∧ s.env.enable = true ∧ s.txOverride = true := ⟨txTurn_of_silent rfl rfl rfl rfl, rfl, rfl⟩

/-- StartSubStep: a refused and an accepted start. -/
theorem witness_StartSubStep :
    TxTurn sending .sending sending ∧ sending.txStarted = false
      ∧ readTransmit sending = .ok [0x41, 0x42, 0x43, 0x44, 0x45, 0x10, 0x00]
      ∧ ({ Env.silent with startStatuses := [-2] } : Env).startStatus ≠ params.drvOk
      ∧ ({ Env.silent with startStatuses := [0] } : Env).startStatus = params.drvOk :=
  ⟨txTurn_of_silent rfl rfl rfl rfl, rfl, by decide, by decide, by decide⟩

/-- PollSubStep: completion, and the registers of a poll that reads NOW (V-FSM-P-3 and V-FSM-P-4 at the timeout, V-FSM-P-2 at the period). -/
theorem witness_PollSubStep :
    TxTurn polling .sending polling ∧ polling.txStarted = true ∧ ({ Env.silent with txDones := [true] } : Env).txDone = true
      ∧ (polling.txLastBeat = .holds 0 ∧ polling.txT0 = .holds 0 ∧ polling.txTimeout = .holds 1500000)
      ∧ ∀ now ∈ [999999, 1000000, 1500000, 1500001],
        ({ Env.silent with txDones := [false], timeSteps := [now] } : Env).txDone = false
          ∧ now = ({ Env.silent with txDones := [false], timeSteps := [now] } : Env).popTxDone.readNow :=
  ⟨txTurn_of_silent rfl rfl rfl rfl, rfl, rfl, ⟨rfl, rfl, rfl⟩, by decide⟩

/-- ExitStepRestores and ExitLeavesReceiveReady: each way out, for a receive service and for an external caller. -/
theorem witness_ExitStepRestores :
    (∀ x ∈ [TxState.done, .timedOut, .rejected], x.isExiting = true ∧ TxTurn (exiting x .ok) x (exiting x .ok)
        ∧ (exiting x .ok).seqPhase = .rxTx ∧ TxTurn { exiting x .ok with seqPhase := .extTx } x { exiting x .ok with seqPhase := .extTx })
      ∧ (exiting .done .ok).txPendingResult = .holds .ok ∧ (exiting .done .ok).txExitNeeded = true
      ∧ (exiting .done .ok).restorePending = true ∧ (exiting .done .ok).restoreCfg = .holds fskTable
      ∧ ({ exiting .rejected .txDisabled with txExitNeeded := false } : State).txExitNeeded = false
      ∧ ({ exiting .done .ok with restorePending := false } : State).restorePending = false := by
  refine ⟨fun x hx => ⟨?_, txTurn_of_silent rfl rfl rfl rfl, rfl, seqTurn_of_silent rfl rfl, .inr rfl, rfl⟩,
    rfl, rfl, rfl, rfl, rfl, rfl⟩
  revert x
  decide
theorem witness_ExitLeavesReceiveReady :
    ∃ t, step { exiting .done .ok with env := { Env.silent with linkStatuses := [.ok] } } = .next t ∧ t.txState = .idle :=
  ⟨_, rfl, rfl⟩
theorem witness_DisabledTransmissionMakesNoRadioCall :
    let s := { transmitting .preparing with env := { Env.silent with enables := [false] } }
    s.env.schedule = [] ∧ s.fault = [] ∧ s.seqPhase = .rxTx ∧ s.txState = .preparing ∧ s.env.enable = false :=
  ⟨rfl, rfl, rfl, rfl, rfl⟩

/-- The invariant holds in a transmission under way. -/
theorem polling_invariant : Invariant polling := by
  refine ⟨by decide +kernel, rfl, ⟨by decide, by decide, by decide⟩, by decide, by decide, ?_, by decide, by decide, by decide, by decide,
    fun _ _ => ⟨⟨0, rfl, Nat.le_refl 0⟩, ⟨0, rfl, Nat.le_refl 0⟩⟩, by decide, by decide, by decide, by decide, by decide⟩
  intro n hn
  cases hn
  decide

/-- The restore discipline holds there too. -/
theorem polling_receiveReady : ReceiveReady polling := by
  refine ⟨by decide, by decide, by decide, ?_, by decide, ?_, ?_⟩ <;> intro h <;> cases h

/-- TransmitStateFollowsItsEdges, NoModelFaultIsReached and RestoreDisciplineIsKept. -/
theorem witness_NoModelFaultIsReached :
    let s := { polling with env := { Env.silent with txDones := [true] } }
    Invariant s ∧ ReceiveReady s ∧ ∃ t, step s = .next t :=
  ⟨⟨polling_invariant.1, rfl, polling_invariant.3, polling_invariant.4, polling_invariant.5, polling_invariant.6, polling_invariant.7,
      polling_invariant.8, polling_invariant.9, polling_invariant.10, polling_invariant.11, polling_invariant.12, polling_invariant.13,
      polling_invariant.14, polling_invariant.15, polling_invariant.16⟩,
    ⟨polling_receiveReady.1, polling_receiveReady.2, polling_receiveReady.3, polling_receiveReady.4, polling_receiveReady.5,
      polling_receiveReady.6, polling_receiveReady.7⟩, _, rfl⟩

/-- HeartbeatsAreAPeriodApart: a step that issues a heartbeat, and one that issues none. -/
theorem witness_HeartbeatsAreAPeriodApart :
    let s := { polling with env := { Env.silent with txDones := [false], timeSteps := [1000000] } }
    (∃ t, step s = .next t ∧ Event.call .watchdog .heartbeat ∈ newEvents s t)
      ∧ ∃ t, step (withMove .tmrEvent idle) = .next t ∧ Event.call .watchdog .heartbeat ∉ newEvents (withMove .tmrEvent idle) t := by
  refine ⟨⟨_, rfl, ?_⟩, _, rfl, ?_⟩ <;> decide +kernel

/-- PollLoopTerminates, second clause: a loop whose time grows just past the timeout. -/
theorem witness_PollLoopTerminates :
    let s := { polling with env := { Env.silent with timeSteps := [1000000, 500001] } }
    Invariant s ∧ s.env.schedule = [] ∧ s.txState = .sending ∧ s.txStarted = true ∧ s.txTimeout = .holds 1500000
      ∧ 1500000 < s.env.timeSteps.sum :=
  ⟨⟨polling_invariant.1, rfl, polling_invariant.3, polling_invariant.4, polling_invariant.5, polling_invariant.6, polling_invariant.7,
      polling_invariant.8, polling_invariant.9, polling_invariant.10, polling_invariant.11, polling_invariant.12, polling_invariant.13,
      polling_invariant.14, polling_invariant.15, polling_invariant.16⟩, rfl, rfl, rfl, rfl, by decide⟩

/-- The states of a run: the exit step of a refused transmission, RxPost, RxEnd, and from then on ENV's clears of SWITCH_MODEM, with NOW equal
to the number of the step. -/
def runState : Nat → State
  | 0 => { exiting .rejected .txDisabled with txExitNeeded := false, restorePending := false, rxLineEn := true }
  | n + 1 => leaves (step { runState n with
      env := { Env.silent with schedule := if n < 3 then [] else [.port .clearSwitchModem], now := n } })

/-- That run as ENV scripts it. -/
def runScripted (n : Nat) : State :=
  { runState n with env := { Env.silent with schedule := if n < 3 then [] else [.port .clearSwitchModem], now := n } }

/-- The block after the third step: idle, with nothing waiting. -/
def runEnd (now : Nat) : State :=
  { exiting .rejected .txDisabled with
    txExitNeeded := false, restorePending := false, rxLineEn := true, txResult := .holds .txDisabled, txState := .idle, intEn := true
    seqPhase := .idle, trace := [.log .txDisabled], env := { Env.silent with now := now } }

theorem runState_end (n : Nat) : runState (n + 3) = runEnd (n + 2) := by
  induction n with
  | zero => rfl
  | succ n ih =>
    rw [show n + 1 + 3 = (n + 3) + 1 by omega, runState, ih, if_neg (by omega)]
    rfl

/-- PollLoopTerminates, first clause: a fair run from a state of the invariant with a transmission under way. -/
theorem witness_FairRun : FairRun runState runScripted ∧ Invariant (runState 0) ∧ (runState 0).txState = .rejected := by
  have late : ∀ n, 3 ≤ n → runScripted n = { runEnd (n - 1) with
      env := { Env.silent with schedule := [.port .clearSwitchModem], now := n } } := fun n hn => by
    obtain ⟨k, rfl⟩ : ∃ k, n = k + 3 := ⟨n - 3, by omega⟩
    simp only [runScripted, runState_end, if_neg (show ¬ k + 3 < 3 by omega)]
    rfl
  refine ⟨⟨fun n => ?_, fun n => ?_, fun a n h => ?_, fun b => ⟨b, Nat.le_refl b⟩⟩, ?_, rfl⟩
  · refine ⟨rfl, ?_⟩
    match n with
    | 0 => decide
    | 1 => decide
    | 2 => decide
    | k + 3 => rw [runState_end]; exact Nat.le_succ _
  · match n with
    | 0 => rfl
    | 1 => rfl
    | 2 => rfl
    | k + 3 =>
      rw [show k + 3 + 1 = k + 1 + 3 by omega, runState_end, late _ (by omega)]
      rfl
  · have hm : 3 ≤ n + 3 := by omega
    cases a with
    | seq =>
      have := h (n + 3) (by omega)
      rw [late _ hm] at this
      exact absurd (show false = true from this) (by decide)
    | isrRx => exact (h n (Nat.le_refl n)).elim
    | isrTmr => exact (h n (Nat.le_refl n)).elim
    | env =>
      refine ⟨n + 3, by omega, ?_⟩
      rw [late _ hm]
      exact List.mem_singleton.mpr rfl
  · refine ⟨by decide +kernel, rfl, ⟨by decide, by decide, by decide⟩, by decide, by decide, ?_, by decide, by decide, by decide, by decide,
      ?_, by decide, by decide, by decide, by decide, by decide⟩
    · intro n hn
      cases hn
      decide
    · intro h
      cases h

/-- DeliveryIsGated at the largest length, ResetValues, and TimerIsGatedByIntEn for both levels of INT_EN. -/
theorem witness_DeliveryIsGated :
    (∃ s s0, PortTurn s (.rxDeliver (List.replicate 162 0)) s0) ∧ (List.replicate 162 (0 : Byte)).length ≤ 162 :=
  ⟨⟨withMove (.rxDeliver (List.replicate 162 0)) idle, _, rfl⟩, Nat.le_of_eq List.length_replicate⟩
theorem witness_TimerIsGatedByIntEn :
    (∃ s s0, PortTurn s .tmrEvent s0 ∧ s0.intEn = true) ∧ ∃ s s0, PortTurn s .tmrEvent s0 ∧ s0.intEn = false :=
  ⟨⟨withMove .tmrEvent idle, _, rfl, rfl⟩, withMove .tmrEvent (decoding []), _, rfl, rfl⟩
theorem witness_ResetValues : ∃ s0, PortTurn (withMove .reset idle) .reset s0 := ⟨_, rfl⟩

/-- FlagsHaveOneWriterPerDirection: a step for each of the four changes, and ENV's clear in the bracket. -/
theorem witness_FlagsHaveOneWriterPerDirection :
    (leaves (step (withMove (.rxDeliver []) idle))).dataRx = true
      ∧ (leaves (step { idle with dataRx := true, seqPhase := .rxAck })).dataRx = false
      ∧ (leaves (step (withMove .tmrEvent idle))).switchModem = true
      ∧ (leaves (step (withMove .clearSwitchModem { idle with switchModem := true }))).switchModem = false
      ∧ (nextTurn (withMove .clearSwitchModem (decoding []))).1 = .port .clearSwitchModem := by decide

/-- IntEnIsWrittenInNormalContext: steps that change INT_EN, and ENV's write accepted in ExtTx and refused in the bracket. -/
theorem witness_IntEnIsWrittenInNormalContext :
    (leaves (step (withMove (.setIntEn false) idle))).intEn = false
      ∧ (leaves (step { idle with seqPhase := .rxAck })).intEn = false
      ∧ (leaves (step { decoding [] with seqPhase := .rxEnd })).intEn = true
      ∧ (nextTurn (withMove (.setIntEn false) { polling with seqPhase := .extTx })).1 = .port (.setIntEn false)
      ∧ ((nextTurn (withMove (.setIntEn true) (decoding []))).1 = .port (.setIntEn true)
        ∧ (decoding []).seqPhase ≠ .idle ∧ (decoding []).seqPhase ≠ .extTx) := by decide

/-- ReceiveLineWritesGoWithTheCall: a step that detaches the line and one that attaches it. -/
theorem witness_ReceiveLineWritesGoWithTheCall :
    (leaves (step { transmitting .preparing with txOverride := true, env := { Env.silent with enables := [true] } })).rxLineEn = false
      ∧ (leaves (step { exiting .done .ok with restorePending := false })).rxLineEn = true := by decide

/-- BuffersHaveOneWriter: steps that change RXLEN, TXLEN (by TX_REQ and by RxDecode) and ID_LEN. -/
theorem witness_BuffersHaveOneWriter :
    (leaves (step (withMove (.rxDeliver [0x41]) idle))).rxLen ≠ idle.rxLen
      ∧ (leaves (step (withMove (.txReq [0x41] false) idle))).txLen ≠ idle.txLen
      ∧ (leaves (step (decoding [0x41, 0x42, 0x43, 0x44, 0x45, 0x00, 0x00]))).txLen ≠ (decoding []).txLen
      ∧ (leaves (step { State.reset with
          par := params, env := { Env.silent with callsigns := [([0x41], 1)], linkStatuses := [.ok] } })).idLen.isWritten = true := by
  decide +kernel

/-- HaltedOnlyByLinkFault: a step that halts. -/
theorem witness_HaltedOnlyByLinkFault :
    let s := { refusedOverrideState with env := { Env.silent with linkStatuses := [.err .commandFailed] } }
    ∃ t, step s = .next t ∧ s.seqPhase ≠ .halted ∧ t.seqPhase = .halted := ⟨_, rfl, by decide, rfl⟩

/-- The halted block of V-ERR-3. -/
def haltedState : State := { decoding [] with txState := .halted, seqPhase := .halted }
theorem witness_HaltedUntilReset :
    haltedState.seqPhase = .halted ∧ SeqTurn haltedState haltedState
      ∧ ∃ t, step (withMove (.rxDeliver []) haltedState) = .next t :=
  ⟨rfl, seqTurn_of_silent rfl rfl, _, rfl⟩

/-- ModelFaultsStopSeq and TraceOnlyGrows: a state with a fault recorded, and a step that is no RESET. -/
theorem witness_ModelFaultsStopSeq :
    nextTurn { idle with fault := [.unwritten] } = (.seq, { idle with fault := [.unwritten] })
      ∧ (∃ t, step (withMove .tmrEvent { idle with fault := [.unwritten] }) = .next t)
      ∧ (nextTurn (withMove .tmrEvent { idle with fault := [.unwritten] })).1 ≠ .port .reset :=
  ⟨rfl, ⟨_, rfl⟩, by decide⟩

/-- BootLoadsIdentifierAndModem at the ends of the identifier length, for both answers of the driver. -/
theorem witness_BootLoadsIdentifierAndModem :
    ∀ l ∈ [1, 32], ∀ r ∈ [LinkStatus.ok, .err .chipNotFound],
      let s : State := { State.reset with
        env := { Env.silent with callsigns := [(List.replicate 32 (0x41 : Byte), l)], linkStatuses := [r] } }
      SeqTurn s s ∧ s.seqPhase = .boot ∧ s.env.callsign = (List.replicate 32 (0x41 : Byte), l)
        ∧ (1 ≤ l ∧ l ≤ 32 ∧ l ≤ (List.replicate 32 (0x41 : Byte)).length) ∧ s.env.popCallsign.linkStatus = r := by
  intro l hl r _
  refine ⟨seqTurn_of_silent rfl rfl, rfl, rfl, ?_, rfl⟩
  revert l
  decide

/-- The boot of State.reset itself: the free answer to getCallsign keeps the host duty. -/
theorem witness_BootOfReset :
    SeqTurn State.reset State.reset ∧ State.reset.seqPhase = .boot
      ∧ 1 ≤ State.reset.env.callsign.2 ∧ State.reset.env.callsign.2 ≤ 32
      ∧ State.reset.env.callsign.2 ≤ State.reset.env.callsign.1.length :=
  ⟨seqTurn_of_silent rfl rfl, rfl, callsign_bounds rfl⟩

end Sys2Proof.Tests
end

namespace Sys2Proof.Machine

/-! ## ROUND on real numbers (00_scope.md R10; 93_implementation_defined.md section 2)

The three products that `roundReal` reads are ⌊x⌋, ⌊2x⌋ and ⌊−2x⌋. Each written rounding is first given as a function of the real
itself; that it is the nearest integer, with its ties as named, is then a fact about reals. -/

section Roundings

variable {f : Rat → Int} {x : ℝ}

theorem cut_one (h : IsCutOf f x) : f 1 = ⌊x⌋ := by simp [h 1]

theorem cut_two (h : IsCutOf f x) : f 2 = ⌊2 * x⌋ := by simp [h 2, mul_comm]

theorem cut_neg_one (h : IsCutOf f x) : f (-1) = ⌊-x⌋ := by simp [h (-1)]

theorem cut_neg_two (h : IsCutOf f x) : f (-2) = ⌊2 * -x⌋ := by simp [h (-2), mul_comm]

theorem floor_two_mul_add_one_ediv_two (x : ℝ) : (⌊2 * x⌋ + 1) / 2 = round x := by
  have half : x + 1 / 2 = (2 * x + 1) / (2 : ℕ) := by push_cast; ring
  rw [round_eq, half, Int.floor_div_natCast, Int.floor_add_one, Nat.cast_ofNat]

theorem roundReal_halfAwayFromZero (h : IsCutOf f x) :
    roundReal .halfAwayFromZero f = if 0 ≤ x then round x else -round (-x) := by
  simp only [roundReal, cut_one h, cut_two h, cut_neg_two h, floor_two_mul_add_one_ediv_two, Int.floor_nonneg]

/-- ⌊2x⌋ stays below 2⌊x⌋ + 1 just when the fraction of `x` is less than a half. -/
theorem floor_two_mul_lt_iff (x : ℝ) : ⌊2 * x⌋ < 2 * ⌊x⌋ + 1 ↔ Int.fract x < 1 / 2 := by
  rw [Int.floor_lt, Int.fract]
  push_cast
  constructor <;> intro <;> linarith

/-- Where the fraction of `x` is at least a half, ⌊−2x⌋ = −(2⌊x⌋ + 1) tells the tie. -/
theorem floor_two_mul_neg_eq_iff (hx : ¬ Int.fract x < 1 / 2) : ⌊2 * -x⌋ = -(2 * ⌊x⌋ + 1) ↔ Int.fract x = 1 / 2 := by
  rw [Int.floor_eq_iff]
  rw [Int.fract] at hx ⊢
  push_cast
  constructor
  · rintro ⟨hle, -⟩
    linarith
  · intro htie
    constructor <;> linarith

theorem roundReal_halfToEven (h : IsCutOf f x) :
    roundReal .halfToEven f =
      if Int.fract x < 1 / 2 then ⌊x⌋ else if Int.fract x = 1 / 2 ∧ Even ⌊x⌋ then ⌊x⌋ else ⌊x⌋ + 1 := by
  simp only [roundReal, cut_one h, cut_two h, cut_neg_two h, floor_two_mul_lt_iff, ← Int.even_iff]
  split_ifs with hlow hcut htie htie
  · rfl
  · rfl
  · exact absurd (hcut.imp_left (floor_two_mul_neg_eq_iff hlow).1) htie
  · exact absurd (htie.imp_left (floor_two_mul_neg_eq_iff hlow).2) hcut
  · rfl

/-- Every binding maps integers to themselves. -/
theorem roundReal_intCast (b : RoundBinding) {n : Int} (h : IsCutOf f (n : ℝ)) : roundReal b f = n := by
  cases b with
  | halfAwayFromZero =>
    rw [roundReal_halfAwayFromZero h, ← Int.cast_neg, round_intCast, round_intCast, neg_neg, ite_self]
  | halfToEven => simp [roundReal_halfToEven h]
  | free k =>
    have hn : f 1 = n := by rw [cut_one h, Int.floor_intCast]
    have hneg : f (-1) = -n := by rw [cut_neg_one h, ← Int.cast_neg, Int.floor_intCast]
    simp [roundReal, hn, hneg]

theorem neg_round_neg_sub (x : ℝ) : ((-round (-x) : Int) : ℝ) - x = -x - round (-x) := by
  push_cast
  ring

theorem abs_roundReal_halfAwayFromZero_sub_le (h : IsCutOf f x) :
    |((roundReal .halfAwayFromZero f : Int) : ℝ) - x| ≤ 1 / 2 := by
  rw [roundReal_halfAwayFromZero h]
  split_ifs
  · rw [abs_sub_comm]
    exact abs_sub_round x
  · rw [neg_round_neg_sub]
    exact abs_sub_round (-x)

/-- Mathlib's `round` takes a tie up, since x − 1/2 < round x. -/
theorem round_eq_add_half_of_tie (htie : |(round x : ℝ) - x| = 1 / 2) : (round x : ℝ) = x + 1 / 2 := by
  rcases (abs_eq (by norm_num)).1 htie with hup | hdown
  · linarith
  · linarith [sub_half_lt_round x]

theorem abs_lt_abs_roundReal_halfAwayFromZero_of_tie (h : IsCutOf f x)
    (htie : |((roundReal .halfAwayFromZero f : Int) : ℝ) - x| = 1 / 2) :
    |x| < |((roundReal .halfAwayFromZero f : Int) : ℝ)| := by
  rw [roundReal_halfAwayFromZero h] at htie ⊢
  split_ifs at htie ⊢ with hx
  · rw [round_eq_add_half_of_tie htie, abs_of_nonneg hx, abs_of_nonneg] <;> linarith
  · rw [neg_round_neg_sub, abs_sub_comm] at htie
    rw [Int.cast_neg, abs_neg, round_eq_add_half_of_tie htie, abs_of_neg (not_le.1 hx), abs_of_nonneg] <;> linarith

theorem abs_roundReal_halfToEven_sub_le (h : IsCutOf f x) :
    |((roundReal .halfToEven f : Int) : ℝ) - x| ≤ 1 / 2 := by
  have hsum := Int.floor_add_fract x
  have hnonneg := Int.fract_nonneg x
  have hlt := Int.fract_lt_one x
  rw [roundReal_halfToEven h, abs_le]
  split_ifs with hlow htie
  · constructor <;> linarith
  · constructor <;> linarith [htie.1]
  · push_cast
    constructor <;> linarith

theorem even_roundReal_halfToEven_of_tie (h : IsCutOf f x)
    (htie : |((roundReal .halfToEven f : Int) : ℝ) - x| = 1 / 2) : Even (roundReal .halfToEven f) := by
  have hsum := Int.floor_add_fract x
  have hnonneg := Int.fract_nonneg x
  rw [roundReal_halfToEven h, abs_eq (by norm_num)] at htie
  rw [roundReal_halfToEven h]
  split_ifs at htie ⊢ with hlow heven
  · rcases htie with htie | htie <;> linarith
  · exact heven.2
  · push_cast at htie
    have hhalf : Int.fract x = 1 / 2 := by
      rcases htie with htie | htie <;> linarith [Int.fract_lt_one x]
    exact (Int.not_even_iff_odd.1 fun hfloor => heven ⟨hhalf, hfloor⟩).add_one

end Roundings

/-- Settles O23: both written roundings, computed from three floors, are given as functions of the real they stand for. -/
theorem roundingIsLegal : Obligations.RoundingIsLegal := by
  unfold Obligations.RoundingIsLegal
  exact ⟨fun b _ _ h => roundReal_intCast b h,
    fun _ _ h => ⟨abs_roundReal_halfAwayFromZero_sub_le h, abs_lt_abs_roundReal_halfAwayFromZero_of_tie h⟩,
    fun _ _ h => ⟨abs_roundReal_halfToEven_sub_le h, even_roundReal_halfToEven_of_tie h⟩⟩

end Sys2Proof.Machine

namespace Sys2Proof.Machine

/-! ## What the steps leave alone (10_state.md R35, R36, R37, R46, R49)

Every step but RESET is at most one write of a register with a single writer (`OwnWrite`), followed by work that writes none of these
registers (`Quiet`). The statements about writers are read off that split. -/

/-- The registers with a single writer (10_state.md R35, R36, R49), and the parameters, which have none. -/
structure Owned where
  par : Params
  idBuf : Memory
  idLen : Reg Nat
  rxBuf : Memory
  rxLen : Nat
  txBuf : Memory
  txLen : Nat
  dataRx : Bool
  switchModem : Bool

/-- What a state holds in those registers. -/
def State.owned (s : State) : Owned where
  par := s.par
  idBuf := s.idBuf
  idLen := s.idLen
  rxBuf := s.rxBuf
  rxLen := s.rxLen
  txBuf := s.txBuf
  txLen := s.txLen
  dataRx := s.dataRx
  switchModem := s.switchModem

theorem State.owned_eq_iff (s t : State) :
    t.owned = s.owned ↔ t.par = s.par ∧ t.idBuf = s.idBuf ∧ t.idLen = s.idLen ∧ t.rxBuf = s.rxBuf ∧ t.rxLen = s.rxLen
      ∧ t.txBuf = s.txBuf ∧ t.txLen = s.txLen ∧ t.dataRx = s.dataRx ∧ t.switchModem = s.switchModem := by
  simp only [State.owned, Owned.mk.injEq]

/-- TRACE has grown, and a change of RXLINE_EN has left the matching `setDio1Action` call in what was added. -/
def Traced (s t : State) : Prop :=
  ∃ es, t.trace = s.trace ++ es
    ∧ (t.rxLineEn = s.rxLineEn
      ∨ (t.rxLineEn = true ∧ Event.call .radio (.setDio1Action .rxIsr) ∈ es)
      ∨ (t.rxLineEn = false ∧ Event.call .radio (.setDio1Action .none) ∈ es))

theorem Traced.of_append {s t : State} (es : List Event) (trace : t.trace = s.trace ++ es) (line : t.rxLineEn = s.rxLineEn) :
    Traced s t :=
  ⟨es, trace, .inl line⟩

theorem Traced.of_eq {s t : State} (trace : t.trace = s.trace) (line : t.rxLineEn = s.rxLineEn) : Traced s t :=
  .of_append [] (by rw [trace, List.append_nil]) line

theorem Traced.trans {s t u : State} (hst : Traced s t) (htu : Traced t u) : Traced s u := by
  obtain ⟨es, htrace, hline⟩ := hst
  obtain ⟨fs, htrace', hline'⟩ := htu
  refine ⟨es ++ fs, by rw [htrace', htrace, List.append_assoc], ?_⟩
  rcases hline' with hsame | ⟨hline', hcall⟩ | ⟨hline', hcall⟩
  · rw [hsame]
    have hcall {e : Event} : e ∈ es → e ∈ es ++ fs := List.mem_append_left fs
    exact hline.imp_right (Or.imp (And.imp_right hcall) (And.imp_right hcall))
  · exact .inr (.inl ⟨hline', List.mem_append_right _ hcall⟩)
  · exact .inr (.inr ⟨hline', List.mem_append_right _ hcall⟩)

theorem Traced.trace_grows {s t : State} (h : Traced s t) : s.trace <+: t.trace := by
  obtain ⟨es, htrace, -⟩ := h
  exact ⟨es, htrace.symm⟩

theorem Traced.newEvents_of_line {s t : State} (h : Traced s t) (hne : t.rxLineEn ≠ s.rxLineEn) :
    (t.rxLineEn = true ∧ Event.call .radio (.setDio1Action .rxIsr) ∈ newEvents s t)
      ∨ (t.rxLineEn = false ∧ Event.call .radio (.setDio1Action .none) ∈ newEvents s t) := by
  obtain ⟨es, htrace, hline⟩ := h
  rw [newEvents, htrace, List.drop_left]
  exact hline.resolve_left hne

/-- Work that writes no register with a single writer and makes the call that goes with a change of RXLINE_EN. -/
structure Quiet (s t : State) : Prop where
  kept : t.owned = s.owned
  traced : Traced s t

namespace Quiet

variable {s t u : State}

protected theorem refl (s : State) : Quiet s s := ⟨rfl, .of_eq rfl rfl⟩

theorem trans (hst : Quiet s t) (htu : Quiet t u) : Quiet s u := ⟨htu.kept.trans hst.kept, hst.traced.trans htu.traced⟩

/-- Writes of registers outside `Owned`, without an event. -/
theorem silent (h : Quiet s t) (kept : u.owned = t.owned := by rfl) (trace : u.trace = t.trace := by rfl)
    (line : u.rxLineEn = t.rxLineEn := by rfl) : Quiet s u :=
  h.trans ⟨kept, .of_eq trace line⟩

/-- Writes of registers outside `Owned`, with the events `es`. -/
theorem emit (h : Quiet s t) (es : List Event) (trace : u.trace = t.trace ++ es) (kept : u.owned = t.owned := by rfl)
    (line : u.rxLineEn = t.rxLineEn := by rfl) : Quiet s u :=
  h.trans ⟨kept, .of_append es trace line⟩

/-! ### The shared operations -/

theorem call {c : Call} {env : Env} (h : Quiet s t) : Quiet s (t.call c env) := h.emit _ rfl

theorem log {e : LogEntry} (h : Quiet s t) : Quiet s (t.log e) := h.emit _ rfl

theorem raise {f : Fault} (h : Quiet s t) : Quiet s (t.raise f) := h.silent

theorem selectCmd {c : Command} (h : Quiet s t) : Quiet s (t.selectCmd c) := h.silent

theorem silentEnd {e : LogEntry} (h : Quiet s t) : Quiet s (silentEnd e t) := h.emit _ rfl

theorem takeLinkFault {k : LinkErr} (h : Quiet s t) : Quiet s (takeLinkFault k t) := h.emit _ rfl

theorem saveModem {cur : Reg ModemConfig} (h : Quiet s t) : Quiet s { t with restoreCfg := cur, restorePending := true } := h.silent

theorem modemSet {cfg : ModemConfig} (h : Quiet s t) : Quiet s { callBegin cfg t with curCfg := .holds cfg } := h.emit _ rfl

theorem restored {cfg : ModemConfig} (h : Quiet s t) : Quiet s (restored cfg t) := h.emit _ rfl

theorem logResult {r : TxResult} (h : Quiet s t) : Quiet s (logResult r t) := by
  cases r with
  | ok => exact h
  | txTimeout => exact h.log
  | txDisabled => exact h.log
  | startError e => exact h.log

theorem attachLine (h : Quiet s t) : Quiet s (attachLine t) :=
  h.trans ⟨rfl, _, rfl, .inr (.inl ⟨rfl, List.mem_cons_self⟩)⟩

theorem suspendReception (h : Quiet s t) : Quiet s (suspendReception t) :=
  h.trans ⟨rfl, _, rfl, .inr (.inr ⟨rfl, List.mem_cons_self⟩)⟩

/-! ### The transmit FSM (43_transmit_fsm.md) -/

theorem enterSending (h : Quiet s t) : Quiet s (enterSending t) := h.emit _ rfl

theorem pollHeartbeat {now last : Nat} (h : Quiet s t) : Quiet s (pollHeartbeat now last t) := by
  unfold Machine.pollHeartbeat
  split
  · exact h.emit [.call .watchdog .heartbeat] rfl
  · exact h

theorem finish (h : Quiet s t) : Quiet s (finish t).state := by
  rcases finish_cases t with ⟨-, hf⟩ | ⟨r, -, hf⟩ <;> rw [hf]
  · exact h.raise
  · exact h.silent

theorem prepareStep (s : State) : Quiet s (prepareStep s).state := by
  have hcalled : Quiet s (callEnable s) := (Quiet.refl s).call
  have hsuspended := hcalled.suspendReception
  rcases prepareStep_cases s with ⟨-, h⟩ | ⟨-, -, h⟩ | ⟨-, -, -, h⟩ | ⟨cur, -, -, -, ⟨-, h⟩ | ⟨k, -, h⟩⟩ <;> rw [h]
  · exact hcalled.silent
  · exact hsuspended.enterSending
  · exact hsuspended.raise
  · exact hsuspended.saveModem.modemSet.enterSending
  · exact hsuspended.saveModem.call.takeLinkFault

theorem startStep (s : State) : Quiet s (startStep s).state := by
  rcases startStep_cases s with ⟨f, -, h⟩ | ⟨buf, -, ⟨-, h⟩ | ⟨-, h⟩⟩ <;> rw [h]
  · exact (Quiet.refl s).raise
  · exact (Quiet.refl s).emit _ rfl
  · exact (Quiet.refl s).emit _ rfl

theorem pollStep (s : State) : Quiet s (pollStep s).state := by
  have hpolled : Quiet s (polled s) := (Quiet.refl s).silent
  rcases pollStep_cases s with ⟨-, h⟩ | ⟨-, -, h⟩ | ⟨last, -, -, ⟨-, h⟩ | ⟨t0, timeout, -, -, ⟨-, h⟩ | ⟨-, h⟩⟩⟩ <;> rw [h]
  · exact (Quiet.refl s).silent
  · exact hpolled.raise
  · exact hpolled.pollHeartbeat.raise
  · exact hpolled.pollHeartbeat.silent
  · exact hpolled.pollHeartbeat

theorem exitStep (s : State) : Quiet s (exitStep s).state := by
  have hstandby : Quiet s (s.call .standby s.env) := (Quiet.refl s).call
  rcases exitStep_cases s with ⟨-, h⟩ | ⟨-, -, h⟩ | ⟨-, -, -, h⟩ | ⟨cfg, -, -, -, ⟨-, h⟩ | ⟨k, -, h⟩⟩ <;> rw [h]
  · exact (Quiet.refl s).finish
  · exact hstandby.attachLine.finish
  · exact hstandby.raise
  · exact hstandby.restored.attachLine.finish
  · exact hstandby.call.takeLinkFault

theorem transmitStep (s : State) : Quiet s (transmitStep s).state := by
  rcases transmitStep_cases s with ⟨-, h⟩ | ⟨-, -, h⟩ | ⟨-, -, h⟩ | ⟨-, h⟩ | ⟨-, h⟩ <;> rw [h]
  · exact .prepareStep s
  · exact .startStep s
  · exact .pollStep s
  · exact .exitStep s
  · exact .refl s

/-! ### The receive service -/

theorem rxPoll (s : State) : Quiet s (rxPoll s) := by
  unfold Machine.rxPoll
  split
  · exact (Quiet.refl s).silent
  · exact .refl s

theorem rxPost (s : State) : Quiet s (rxPost s).state := by
  have h0 := Quiet.refl s
  rcases rxPost_cases s with ⟨h, -⟩ | ⟨c, r, -, -, ⟨-, h⟩ | ⟨-, -, -, ⟨-, h⟩ | ⟨cfg, -, ⟨-, h⟩ | ⟨k, -, h⟩⟩⟩⟩ <;> rw [h]
  · exact h0.raise
  · exact h0.logResult.silent
  · exact h0.raise
  · exact h0.restored.logResult.silent
  · exact h0.call.takeLinkFault

theorem rxEnd (s : State) : Quiet s (rxEnd s).state := by
  rcases rxEnd_cases s with ⟨-, h⟩ | ⟨b, -, h⟩ <;> rw [h]
  · exact (Quiet.refl s).raise
  · exact (Quiet.refl s).silent

theorem logFields {k : Nat} {bs : List Byte} (h : Quiet s t) : Quiet s (logFields k bs t) := by
  rw [logFields_eq]
  exact h.emit _ rfl

theorem telemetry (h : Quiet s t) : Quiet s (telemetry t).2 := by
  obtain ⟨hframe, ⟨es, htrace⟩, -⟩ := telemetry_frame t
  exact h.emit es htrace.symm (by rw [hframe]; rfl) (by rw [hframe])

theorem telemetryLogged (s : State) : Quiet s (telemetryLogged s) := (Quiet.refl s).selectCmd.telemetry.logFields

theorem packetInfoRead (s : State) : Quiet s (packetInfoRead s) := (Quiet.refl s).selectCmd.call.call.silent

theorem requestTransmit (ov : Bool) (s : State) : Quiet s (requestTransmit ov s).state := by
  rw [requestTransmit_eq]
  split
  · exact (Quiet.refl s).silent
  · exact (Quiet.refl s).raise

end Quiet

/-! ### The commands -/

/-- Quiet work but for TXBUF and TXLEN. -/
def QuietButTx (s t : State) : Prop := ∃ m n, Quiet { s with txBuf := m, txLen := n } t

namespace QuietButTx

variable {s t u : State}

theorem of_quiet (h : Quiet s t) : QuietButTx s t := ⟨s.txBuf, s.txLen, h⟩

theorem stored (bytes : List Byte) (s : State) : QuietButTx s (stored bytes s) := ⟨_, _, .refl _⟩

theorem after (hst : Quiet s t) (htu : QuietButTx t u) : QuietButTx s u := by
  obtain ⟨m, n, htu⟩ := htu
  have hkept : State.owned { t with txBuf := m, txLen := n } = State.owned { s with txBuf := m, txLen := n } :=
    congrArg (fun o : Owned => { o with txBuf := m, txLen := n }) hst.kept
  exact ⟨m, n, Quiet.trans (t := { t with txBuf := m, txLen := n }) ⟨hkept, hst.traced⟩ htu⟩

theorem andThen (hst : QuietButTx s t) (htu : Quiet t u) : QuietButTx s u := by
  obtain ⟨m, n, hst⟩ := hst
  exact ⟨m, n, hst.trans htu⟩

/-- The end of every command that answers. -/
theorem answer (r : Byte) (d : List Byte) (ov : Bool) (s : State) :
    QuietButTx s ((encodeResponse r d s).andThen (requestTransmit ov)).state := by
  rcases encodeResponse_cases r d s with ⟨id, -, -, -, h⟩ | ⟨f, h⟩ <;> rw [h]
  · exact (stored _ s).andThen (.requestTransmit ov _)
  · exact of_quiet (Quiet.refl s).raise

theorem applyCustom (d : List Byte) (s : State) : QuietButTx s (applyCustom d s).state := by
  have h0 := Quiet.refl s
  rcases applyCustom_cases d s with ⟨-, h⟩ | ⟨cur, -, ⟨k, -, h⟩ | ⟨-, h⟩⟩ <;> rw [h]
  · exact of_quiet h0.raise
  · exact of_quiet h0.saveModem.call.takeLinkFault
  · exact after h0.saveModem.modemSet (answer _ _ true _)

/-- No instruction writes a register with a single writer other than TXBUF and TXLEN. -/
theorem exec {i : Instr} (h : exec i s = .next t) : QuietButTx s t := by
  have hselect {c : Command} : Quiet s (s.selectCmd c) := (Quiet.refl s).selectCmd
  rcases exec_eq i s with ⟨r, d, s1, h', hshape⟩ | ⟨e, h', -⟩ | ⟨-, -, h'⟩ <;> rw [h'] at h <;> cases h
  · refine after ?_ (answer r d false s1)
    rcases hshape with ⟨-, -, -, rfl⟩ | ⟨-, -, -, rfl⟩ | ⟨-, -, -, rfl⟩ | ⟨-, -, -, rfl⟩ | ⟨f, -, -, rfl⟩
    · exact hselect
    · exact hselect
    · exact .telemetryLogged s
    · exact .packetInfoRead s
    · exact hselect
  · exact of_quiet hselect.silentEnd
  · exact after hselect (applyCustom _ _)

theorem rxDecode (h : rxDecode s = .next t) : QuietButTx s t := by
  have hcounted {m : ModemType} {v : Bool} : Quiet s (countFrame m v s) := (Quiet.refl s).call
  rcases rxDecode_next h with ⟨f, rfl⟩ | ⟨cfg, -, ⟨e, rfl⟩ | ⟨f, rfl⟩ | ⟨i, hexec⟩⟩
  · exact of_quiet (Quiet.refl s).raise
  · exact of_quiet hcounted.silentEnd
  · exact of_quiet hcounted.raise
  · exact after hcounted (exec hexec)

end QuietButTx

/-! ### The writes of a turn -/

/-- The one write a turn may make to registers with a single writer (10_state.md R35, R36, R49). -/
inductive OwnWrite (s : State) : Turn → State → Prop
  | delivery (bytes : List Byte) :
    OwnWrite s (.port (.rxDeliver bytes)) (receiveReady { s with rxBuf := Memory.write [] 0 bytes, rxLen := bytes.length })
  | timer : OwnWrite s (.port .tmrEvent) (isrTmr s)
  | transmitRequest (bytes : List Byte) (ov : Bool) (m : Memory) (n : Nat) :
    OwnWrite s (.port (.txReq bytes ov)) { s with txBuf := m, txLen := n }
  | clear : OwnWrite s (.port .clearSwitchModem) { s with switchModem := false }
  | reset : OwnWrite s (.port .reset) (resetBlock s)
  | boot : s.seqPhase = .boot → OwnWrite s .seq (loadCallsign s)
  | ack : s.seqPhase = .rxAck → OwnWrite s .seq { s with dataRx := false }
  | response (m : Memory) (n : Nat) : s.seqPhase = .rxDecode → OwnWrite s .seq { s with txBuf := m, txLen := n }
  | none (τ : Turn) : OwnWrite s τ s

theorem portStep_ownWrite {e : PortEvent} {s t : State} (h : portStep e s = .next t) :
    ∃ s1, OwnWrite s (.port e) s1 ∧ Quiet s1 t := by
  rcases portStep_next h with ⟨bytes, rfl, -, rfl⟩ | ⟨rfl, rfl⟩ | ⟨bytes, ov, rfl, h⟩ | ⟨cfg, rfl, h⟩ | ⟨b, rfl, -, rfl⟩ | ⟨rfl, rfl⟩
      | ⟨rfl, rfl⟩
  · exact ⟨_, .delivery bytes, .refl _⟩
  · exact ⟨_, .timer, .refl _⟩
  · obtain ⟨-, -, -, ⟨-, rfl⟩ | ⟨-, rfl⟩⟩ := txRequest_next h
    · exact ⟨stored bytes s, .transmitRequest bytes ov _ _, (Quiet.refl _).silent⟩
    · exact ⟨_, .none _, (Quiet.refl s).raise⟩
  · obtain ⟨-, -, -, -, ⟨-, rfl⟩ | ⟨k, -, rfl⟩⟩ := modemRequest_next h
    · exact ⟨_, .none _, (Quiet.refl s).modemSet⟩
    · exact ⟨_, .none _, (Quiet.refl s).call.takeLinkFault⟩
  · exact ⟨_, .none _, (Quiet.refl s).silent⟩
  · exact ⟨_, .clear, .refl _⟩
  · exact ⟨_, .reset, .refl _⟩

theorem bootStep_quiet {s t : State} (h : bootStep s = .next t) : Quiet (loadCallsign s) t := by
  obtain ⟨-, ⟨-, rfl⟩ | ⟨k, -, rfl⟩⟩ := bootStep_next h
  · exact (Quiet.refl (loadCallsign s)).modemSet.attachLine.silent
  · exact (Quiet.refl (loadCallsign s)).call.takeLinkFault

theorem phaseStep_ownWrite {s t : State} (h : phaseStep s = .next t) : ∃ s1, OwnWrite s .seq s1 ∧ Quiet s1 t := by
  rcases phaseStep_next h with ⟨hp, h⟩ | ⟨-, rfl⟩ | ⟨hp, rfl⟩ | ⟨hp, h⟩ | ⟨-, rfl⟩ | ⟨-, rfl⟩ | ⟨-, rfl⟩ | ⟨-, rfl⟩
  · exact ⟨_, .boot hp, bootStep_quiet h⟩
  · exact ⟨_, .none _, .rxPoll s⟩
  · exact ⟨_, .ack hp, (Quiet.refl _).silent⟩
  · obtain ⟨m, n, hq⟩ := QuietButTx.rxDecode h
    exact ⟨_, .response m n hp, hq⟩
  · exact ⟨_, .none _, .transmitStep s⟩
  · exact ⟨_, .none _, .rxPost s⟩
  · exact ⟨_, .none _, .rxEnd s⟩
  · exact ⟨_, .none _, .refl _⟩

/-- Every step is the one write its turn may make to registers with a single writer, and quiet work after it. -/
theorem step_ownWrite {s t : State} (h : step s = .next t) :
    ∃ s1, OwnWrite (nextTurn s).2 (nextTurn s).1 s1 ∧ Quiet s1 t := by
  rcases step_next_cases h with ⟨e, hturn, h⟩ | ⟨hturn, -, h⟩ <;> rw [hturn]
  · exact portStep_ownWrite h
  · exact phaseStep_ownWrite h

theorem OwnWrite.traced {s s1 : State} {τ : Turn} (h : OwnWrite s τ s1) (hτ : τ ≠ .port .reset) : Traced s s1 := by
  cases h with
  | delivery bytes => rw [receiveReady_eq]; exact .of_eq rfl rfl
  | reset => exact absurd rfl hτ
  | boot => exact .of_append _ rfl rfl
  | timer | transmitRequest | clear | ack | response | none => exact .of_eq rfl rfl

theorem step_traced {s t : State} (h : step s = .next t) (hτ : (nextTurn s).1 ≠ .port .reset) : Traced s t := by
  obtain ⟨s1, hw, hq⟩ := step_ownWrite h
  have hturn : Traced s (nextTurn s).2 := by rw [nextTurn_eq]; exact .of_eq rfl rfl
  exact hturn.trans ((hw.traced hτ).trans hq.traced)

/-! ### The statements -/

/-- Settles O48: of the writes a turn may make, the delivery and RxAck touch DATA_RX, the timer and ENV's clear SWITCH_MODEM, each in its own
direction. -/
theorem flagsHaveOneWriterPerDirection : Obligations.FlagsHaveOneWriterPerDirection := by
  unfold Obligations.FlagsHaveOneWriterPerDirection
  refine ⟨fun s t h => ?_, fun s s0 hturn => step_of_portTurn hturn⟩
  obtain ⟨s1, hw, hq⟩ := step_ownWrite h
  obtain ⟨-, -, -, -, -, -, -, hdata, hswitch⟩ := (State.owned_eq_iff _ _).mp hq.kept
  rw [hdata, hswitch, Agent.moves, Agent.moves]
  rw [nextTurn_eq] at hw ⊢
  generalize (nextTurn s).1 = τ at hw ⊢
  cases hw with
  | delivery bytes => simp +contextual [receiveReady_eq, Turn.agents]
  | timer => simp +contextual [Turn.agents]
  | ack hp => simp [show s.seqPhase = .rxAck from hp]
  | clear | reset => simp
  | transmitRequest | boot | response | none => simp +contextual

/-- Settles O50: the trace of a step carries the calls that go with its changes of RXLINE_EN. -/
theorem receiveLineWritesGoWithTheCall : Obligations.ReceiveLineWritesGoWithTheCall := by
  unfold Obligations.ReceiveLineWritesGoWithTheCall
  intro s t h hne
  by_cases hreset : (nextTurn s).1 = .port .reset
  · exact .inl hreset
  · exact .inr ((step_traced h hreset).newEvents_of_line hne)

/-- Settles O51: of the writes a turn may make, each buffer and the identifier has its own, and none is to a parameter. -/
theorem buffersHaveOneWriter : Obligations.BuffersHaveOneWriter := by
  unfold Obligations.BuffersHaveOneWriter
  intro s t h
  obtain ⟨s1, hw, hq⟩ := step_ownWrite h
  obtain ⟨hpar, hidBuf, hidLen, hrxBuf, hrxLen, htxBuf, htxLen, -, -⟩ := (State.owned_eq_iff _ _).mp hq.kept
  rw [hpar, hidBuf, hidLen, hrxBuf, hrxLen, htxBuf, htxLen]
  rw [nextTurn_eq] at hw
  generalize (nextTurn s).1 = τ at hw ⊢
  cases hw with
  | delivery bytes => simp [receiveReady_eq]
  | boot hp => simp [show s.seqPhase = .boot from hp]
  | response m n hp => simp [show s.seqPhase = .rxDecode from hp]
  | timer | transmitRequest | clear | reset | ack | none => simp

/-- Settles O55: only RESET shortens TRACE. -/
theorem traceOnlyGrows : Obligations.TraceOnlyGrows := by
  unfold Obligations.TraceOnlyGrows
  exact fun s t h hreset => (step_traced h hreset).trace_grows

/-! ## The values RESET gives (10_state.md R50) -/

theorem params_reference_wf : Params.reference.wf = true := by decide +kernel

/-- The bytes received and to be sent are none, and every clause about a later phase has a false hypothesis. -/
theorem invariant_reset : Invariant State.reset where
  params := params_reference_wf
  noFault := rfl
  canonical := ⟨.nil, .nil, .nil⟩
  received := ⟨Nat.zero_le _, rfl⟩
  toSend := ⟨Nat.zero_le _, rfl⟩
  identifier n h := nomatch h
  booted h := nomatch h
  fsm := by decide
  halted := by decide
  timeout h := nomatch h
  started h := nomatch h
  settled h := nomatch h
  restorable h := nomatch h
  bracket h := nomatch h
  command h := nomatch h
  result h := nomatch h

theorem receiveReady_reset : ReceiveReady State.reset where
  settledRestore _ _ := rfl
  attached h := nomatch h
  preparingAttached h := nomatch h
  preparingPending h := nomatch h
  exitDue h := nomatch h
  disabled h := nomatch h
  postPending h := nomatch h

/-- Settles O58: the state after reset, clause by clause. -/
theorem resetMeetsTheInvariants : Obligations.ResetMeetsTheInvariants := by
  unfold Obligations.ResetMeetsTheInvariants
  exact ⟨invariant_reset, receiveReady_reset⟩

/-- Settles O59: RESET is ENV's move `resetBlock`, whose fields are the reset table. -/
theorem resetValues : Obligations.ResetValues := by
  unfold Obligations.ResetValues
  intro s s0 h
  refine ⟨resetBlock s0, step_of_portTurn h, ?_⟩
  simp

end Sys2Proof.Machine

namespace Sys2Proof.Machine

/-! ## The bounds of the byte spaces (20_memory.md R72, R73; 40_codec.md R147, R152) -/

/-! ### Reads -/

theorem Memory.fetch_past (m : Memory) {bound off n : Nat} (h : bound < off + n) : m.fetch bound off n = .error .codecBounds :=
  if_pos h

theorem memRead_rx_past {s : State} {off n : Nat} (h : s.rxLen < off + n) : memRead .rx off n s = .error .codecBounds :=
  s.rxBuf.fetch_past h

theorem memRead_tx_past {s : State} {off n : Nat} (h : s.txLen < off + n) : memRead .tx off n s = .error .codecBounds :=
  s.txBuf.fetch_past h

theorem memRead_ids_past {s : State} {off n k : Nat} (hk : s.idLen = .holds k) (h : k < off + n) :
    memRead .ids off n s = .error .codecBounds := by
  rw [memRead, hk]
  exact s.idBuf.fetch_past h

theorem extractOptionalData_past {s : State} {off n : Nat} (h : Config.optMax < n ∨ s.rxLen < off + n) :
    extractOptionalData off n s = .error .codecBounds := by
  rw [extractOptionalData]
  split
  · rfl
  · next hn => exact memRead_rx_past (h.resolve_left hn)

/-! ### Writes -/

theorem State.mem_fault_raise (f : Fault) (s : State) : f ∈ (s.raise f).fault := by
  rw [State.raise_fault]
  split
  · assumption
  · exact List.mem_append_right _ (List.mem_singleton_self f)

/-- A step that meets a model fault records it and writes nothing else (60_exceptions.md R322). -/
theorem raiseFault_frame (f : Fault) (s : State) :
    (raiseFault f s).state = { s with fault := (raiseFault f s).state.fault } ∧ f ∈ (raiseFault f s).state.fault :=
  ⟨rfl, State.mem_fault_raise f s⟩

theorem memWrite_past {sp : Space} {off : Nat} {bs : List Byte} (h : sp.capacity < off + bs.length) (s : State) :
    memWrite sp off bs s = raiseFault .codecBounds s :=
  if_pos h

theorem memWrite_tx_within {off : Nat} {bs : List Byte} (h : off + bs.length ≤ Space.tx.capacity) (s : State) :
    memWrite .tx off bs s = .run { s with txBuf := s.txBuf.write off bs } :=
  if_neg (Nat.not_lt.mpr h)

theorem Memory.byte_write_within (m : Memory) (off : Nat) {bs : List Byte} {i : Nat} (hi : i < bs.length) :
    (m.write off bs).byte (off + i) = bs[i]? :=
  ((read_eq_some_iff _ _ _ _).mp (read_write_same bs m off)).2 i hi

theorem encodeResponse_past (r : Byte) {d : List Byte} (h : Config.optMax < d.length) (s : State) :
    encodeResponse r d s = raiseFault .codecBounds s :=
  if_pos h

/-- Settles O9: each access past its bound is `raiseFault .codecBounds`, which writes FAULT alone, and a write within TX_CAP is
`Memory.write`, whose bytes are known inside the string and on both sides of it. -/
theorem boundsAreFaults : Obligations.BoundsAreFaults := by
  unfold Obligations.BoundsAreFaults
  refine ⟨fun s off n => memRead_rx_past, fun s off n => memRead_tx_past, fun s off n k => memRead_ids_past,
    fun s off n => extractOptionalData_past, fun s off bs h => ?_, fun s off bs h => ?_, fun s r d h => ?_⟩
  · rw [memWrite_past h]
    exact raiseFault_frame _ _
  · refine ⟨_, memWrite_tx_within h s, rfl, fun i hi => Memory.byte_write_within _ _ hi, fun a ha => ?_⟩
    rcases ha with hbelow | habove
    · exact Memory.byte_write_below _ _ _ _ hbelow
    · exact Memory.byte_write_above _ _ _ _ habove
  · rw [encodeResponse_past r h]
    exact raiseFault_frame _ _

end Sys2Proof.Machine

namespace Sys2Proof

/-! ## The frame codec: selection, and the round trip (30_encoding.md R101, R110, R111; 40_codec.md R153) -/

theorem selectCommand_privateCmd {p : Params} {f : Byte} (h : p.privateOffset ≤ f) : selectCommand p f = .privateCmd f :=
  if_pos h

theorem selectCommand_unknown {p : Params} {f : Byte} (hf : f < p.privateOffset) (hid : f ∉ p.commandIds) :
    selectCommand p f = .unknown f := by
  simp only [Params.commandIds, List.mem_cons, List.not_mem_nil, or_false, not_or] at hid
  simp [selectCommand, BitVec.not_le.mpr hf, hid]

/-- Under a legal binding the function identifier of an instruction selects the instruction's own command: a public identifier is below
PRIVATE_OFFSET, and different from every one that selection tests before it. -/
theorem selectCommand_functionId {p : Params} (hp : p.wf = true) {i : Instr} (hi : i.selectorFits p = true) :
    selectCommand p (i.functionId p) = i.command := by
  obtain ⟨hnodup, hbelow, -⟩ := Params.wf_commands hp
  have hdiffers : [p.cmdGetLastPacketInfo, p.cmdTransmitSystemInfo, p.cmdRetransmitCustom, p.cmdRetransmit, p.cmdPing].Nodup :=
    List.nodup_reverse.mpr hnodup
  simp only [Params.commandIds, List.forall_mem_cons, ← BitVec.not_le] at hbelow
  simp only [List.nodup_cons, List.mem_cons, List.not_mem_nil, or_false, not_or] at hdiffers
  cases i with
  | ping d => simp [Instr.functionId, Instr.command, selectCommand, hbelow]
  | retransmit d => simp [Instr.functionId, Instr.command, selectCommand, hbelow, hdiffers]
  | retransmitCustom d => simp [Instr.functionId, Instr.command, selectCommand, hbelow, hdiffers]
  | transmitSystemInfo d => simp [Instr.functionId, Instr.command, selectCommand, hbelow, hdiffers]
  | getLastPacketInfo d => simp [Instr.functionId, Instr.command, selectCommand, hbelow, hdiffers]
  | unknown f d =>
    simp only [Instr.selectorFits, Bool.and_eq_true, decide_eq_true_eq] at hi
    exact selectCommand_unknown hi.1 hi.2
  | privateCmd f d => exact selectCommand_privateCmd (of_decide_eq_true hi)

/-- A frame behind the configured identifier decodes to its selected command with its data (40_codec.md R153). -/
theorem decode_frame (p : Params) (id : List Byte) (f : Byte) {d : List Byte} (hd : d.length ≤ Config.optMax) :
    decode p id (frame id f d) = .ok ((selectCommand p f).toInstr d) := by
  simp only [decode, decodeHeader_frame f hd rfl rfl, optionalDataOf_frame]

theorem decode_encode {p : Params} (hp : p.wf = true) (id : List Byte) {i : Instr} (hi : i.wf p = true) :
    decode p id (encode p id i) = .ok i := by
  obtain ⟨hdata, hselector⟩ := Bool.and_eq_true_iff.mp hi
  rw [encode, decode_frame p id _ (of_decide_eq_true hdata), selectCommand_functionId hp hselector, toInstr_command]

/-- Settles O2: the header, the data and the selected command of an encoded frame are the instruction's own. -/
theorem decodeOfEncode : Obligations.DecodeOfEncode := by
  unfold Obligations.DecodeOfEncode
  exact fun p id i hp _ hi => decode_encode hp id hi

/-- Settles O8: the five public commands by `selectCommand_functionId`, every other identifier by the lemma about its space. -/
theorem selectionFollowsTheMap : Obligations.SelectionFollowsTheMap := by
  unfold Obligations.SelectionFollowsTheMap
  exact fun p hp => ⟨selectCommand_functionId hp (i := .ping []) rfl, selectCommand_functionId hp (i := .retransmit []) rfl,
    selectCommand_functionId hp (i := .retransmitCustom []) rfl, selectCommand_functionId hp (i := .transmitSystemInfo []) rfl,
    selectCommand_functionId hp (i := .getLastPacketInfo []) rfl, fun _ hf hid => selectCommand_unknown hf hid,
    fun _ hf => selectCommand_privateCmd hf⟩

/-- Settles O1: the decoder computes each of the seven frames. -/
theorem writtenFramesDecode : Obligations.WrittenFramesDecode := by
  unfold Obligations.WrittenFramesDecode
  decide

end Sys2Proof

namespace Sys2Proof.Machine

/-! ## PING (41_commands.md R185; 30_encoding.md R116) -/

/-- A frame that is stored and requested is the one to be sent (41_commands.md R183; 40_codec.md R152). -/
theorem sends_requested_stored (ov : Bool) (id : List Byte) (r : Byte) (d : List Byte) (s : State) :
    Sends (requested ov (stored (frame id r d) s)) id r d ov :=
  ⟨readTransmit_stored _ s, frame_length id r d, rfl, rfl, rfl⟩

theorem exec_ping {s : State} {id : List Byte} (d : List Byte) (hid : IdReady s id) (hidle : s.txState = .idle) :
    exec (.ping d) s = .next (requested false (stored (frame id s.par.respPong []) (s.selectCmd .ping))) := by
  have hrun : respond s.par.respPong [] (s.selectCmd .ping)
      = .run (requested false (stored (frame id s.par.respPong []) (s.selectCmd .ping))) :=
    respond_run _ hid.1 hid.2 (Nat.zero_le _) hidle
  exact congrArg Flow.outcome hrun

/-- Settles O15: the state PING leaves is written out by `exec_ping`, and its frame by `sends_requested_stored`. -/
theorem pingAnswersEmptyPong : Obligations.PingAnswersEmptyPong := by
  unfold Obligations.PingAnswersEmptyPong
  exact fun s id d hid hidle =>
    ⟨_, exec_ping d hid hidle, sends_requested_stored _ _ _ _ _, frame_length id _ [], rfl, rfl, rfl⟩

/-! ## The operands of RETRANSMIT_CUSTOM (30_encoding.md R108, R109; 20_memory.md R75) -/

/-- The bandwidth table, read at an index that names an entry (30_encoding.md R109). -/
theorem bandwidthKhz_eq_table {b : Byte} (h : b.toNat ≤ 7) :
    [(7.8 : Rat), 10.4, 15.6, 20.8, 31.25, 41.7, 62.5, 125.0][b.toNat]? = some (bandwidthKhz b) := by
  unfold bandwidthKhz
  generalize b.toNat = n at h
  interval_cases n <;> norm_num

/-- The preamble length is little-endian: its bits are byte 4 followed by byte 3 (20_memory.md R75). -/
theorem preambleOf_toNat (d : List Byte) :
    (preambleOf d).toNat = (operandByte d 3).toNat + 256 * (operandByte d 4).toNat := by
  have happend : preambleOf d = operandByte d 4 ++ operandByte d 3 := by
    rw [preambleOf, BitVec.append_def, BitVec.shiftLeftZeroExtend_eq, BitVec.setWidth'_eq, BitVec.or_comm]
  rw [happend, BitVec.toNat_append, ← Nat.shiftLeft_add_eq_or_of_lt (operandByte d 3).isLt, Nat.shiftLeft_eq]
  omega

/-- A byte read as s8: its upper half is negative (00_scope.md R11). -/
theorem byte_toInt (b : Byte) : b.toInt = if b.toNat < 128 then (b.toNat : Int) else (b.toNat : Int) - 256 := by
  rw [BitVec.toInt_eq_toNat_cond]
  split <;> split <;> omega

/-- Settles O20: bandwidth, preamble and power by their lemmas above, every other field by definition. -/
theorem customOperandFields : Obligations.CustomOperandFields := by
  unfold Obligations.CustomOperandFields
  exact fun p d => ⟨rfl, fun h => congrArg (Option.map RealValue.rational) (bandwidthKhz_eq_table h), rfl, rfl, preambleOf_toNat d,
    decide_eq_true_iff, byte_toInt _, rfl, rfl, rfl⟩

end Sys2Proof.Machine

namespace Sys2Proof

/-! ## The header and the rejections of received bytes (40_codec.md R141 to R145) -/

theorem decode_of_header_error {p : Params} {id rx : List Byte} {e : DecodeError} (h : decodeHeader id rx = .error e) :
    decode p id rx = .error e := by
  simp [decode, h]

theorem decode_ok_iff (p : Params) (id rx : List Byte) (i : Instr) :
    decode p id rx = .ok i ↔
      ∃ h, decodeHeader id rx = .ok h ∧ (selectCommand p h.functionId).toInstr (optionalDataOf rx h) = i := by
  cases hd : decodeHeader id rx <;> simp [decode, hd]

/-- An instruction is decoded exactly when the header is: selection is total (30_encoding.md R110). -/
theorem isOk_decode (p : Params) (id rx : List Byte) : (decode p id rx).isOk = (decodeHeader id rx).isOk := by
  cases hd : decodeHeader id rx <;> simp [decode, hd, Except.isOk, Except.toBool]

/-- Only the comparison answers IdentifierMismatch, and it comes first (60_exceptions.md R335). -/
theorem decodeHeader_identifierMismatch_iff (id rx : List Byte) :
    decodeHeader id rx = .error .identifierMismatch ↔ ¬ comparedId id <+: rx := by
  rw [← identifierMatches_iff, Bool.not_eq_true, decodeHeader]
  split_ifs with hmismatch <;> simp [hmismatch]

/-- Matching identifier bytes leave the three checks of the lengths (40_codec.md R143, R144). -/
theorem decodeHeader_malformedLength_iff {id rx : List Byte} (h : comparedId id <+: rx) :
    decodeHeader id rx = .error .malformedLength ↔
      rx.length < id.length + 2 ∨ Config.optMax < (rx.getD (id.length + 1) 0).toNat
        ∨ rx.length < frameLength id.length (rx.getD (id.length + 1) 0).toNat := by
  rw [decodeHeader, if_neg (by simp [(identifierMatches_iff _ _).mpr h])]
  generalize (rx.getD (id.length + 1) 0).toNat = n
  split_ifs with hheader hdeclared hframe
  · simp [hheader]
  · simp [hdeclared]
  · simp [hframe]
  · simp [hheader, hdeclared, hframe]

/-- The compared bytes lead the received ones unless one of them was not received or differs (40_codec.md R142). -/
theorem not_comparedId_isPrefix_iff (id rx : List Byte) :
    ¬ comparedId id <+: rx ↔ ∃ i, i < id.length - 1 ∧ (rx.length ≤ i ∨ rx[i]? ≠ id[i]?) := by
  have hcompared (i : Nat) (hi : i < (comparedId id).length) : some (comparedId id)[i] = id[i]? := by
    rw [← List.getElem?_eq_getElem hi]
    exact List.getElem?_take_of_lt (comparedId_length id ▸ hi)
  have hprefix : comparedId id <+: rx ↔ ∀ i, i < id.length - 1 → rx[i]? = id[i]? := by
    simp only [List.prefix_iff_getElem?, hcompared, comparedId_length]
  rw [hprefix]
  push Not
  refine exists_congr fun i => and_congr_right fun hi => (or_iff_right_of_imp fun hshort => ?_).symm
  rw [List.getElem?_eq_none hshort, List.getElem?_eq_getElem (by omega)]
  exact Option.some_ne_none _ ∘ Eq.symm

/-- Settles O4: only the comparison answers IdentifierMismatch, and it compares byte by byte. -/
theorem identifierMismatchExactly : Obligations.IdentifierMismatchExactly := by
  unfold Obligations.IdentifierMismatchExactly
  exact fun _ id rx => ⟨(decodeHeader_identifierMismatch_iff id rx).trans (not_comparedId_isPrefix_iff id rx), decode_of_header_error⟩

/-- Settles O5: behind matching identifier bytes only the three checks of the lengths are left. -/
theorem malformedLengthExactly : Obligations.MalformedLengthExactly := by
  unfold Obligations.MalformedLengthExactly
  exact fun _ _ h => decodeHeader_malformedLength_iff h

/-! ### Trailing bytes -/

/-- The data a decoded header declares lie within the received bytes (40_codec.md R144). -/
theorem data_within_received {id rx : List Byte} {h : Header} (hd : decodeHeader id rx = .ok h) :
    h.dataOffset + h.dataLength ≤ rx.length := by
  obtain ⟨-, -, -, hframe, rfl⟩ := (decodeHeader_ok_iff _ _ _).mp hd
  exact hframe

theorem decodeHeader_append {id rx : List Byte} {h : Header} (extra : List Byte) (hd : decodeHeader id rx = .ok h) :
    decodeHeader id (rx ++ extra) = .ok h := by
  obtain ⟨hmatches, hheader, hdeclared, hframe, rfl⟩ := (decodeHeader_ok_iff _ _ _).mp hd
  have hcode : (rx ++ extra).getD id.length 0 = rx.getD id.length 0 := List.getD_append _ _ _ _ (by omega)
  have hlength : (rx ++ extra).getD (id.length + 1) 0 = rx.getD (id.length + 1) 0 := List.getD_append _ _ _ _ (by omega)
  rw [identifierMatches_iff] at hmatches
  rw [decodeHeader_ok_iff, hcode, hlength, identifierMatches_iff, List.length_append]
  exact ⟨hmatches.trans (List.prefix_append _ _), by omega, hdeclared, by omega, rfl⟩

theorem optionalDataOf_append {rx : List Byte} {h : Header} (extra : List Byte) (hw : h.dataOffset + h.dataLength ≤ rx.length) :
    optionalDataOf (rx ++ extra) h = optionalDataOf rx h := by
  rw [optionalDataOf, List.drop_append_of_le_length (by omega), List.take_append_of_le_length (by rw [List.length_drop]; omega),
    optionalDataOf]

/-- Settles O6: neither the header nor the declared data reach into the bytes that follow. -/
theorem trailingBytesIgnored : Obligations.TrailingBytesIgnored := by
  unfold Obligations.TrailingBytesIgnored
  intro p id rx extra i hi
  obtain ⟨h, hd, rfl⟩ := (decode_ok_iff _ _ _ _).mp hi
  refine (decode_ok_iff _ _ _ _).mpr ⟨h, decodeHeader_append extra hd, ?_⟩
  rw [optionalDataOf_append extra (data_within_received hd)]

/-! ### The bytes behind the identifier -/

theorem frame_drop_identifier (id : List Byte) (c : Byte) (d : List Byte) :
    (frame id c d).drop id.length = c :: BitVec.ofNat 8 d.length :: d :=
  List.drop_left

/-- Behind a fixed identifier a frame determines its code byte and its data (40_codec.md R154). -/
theorem frame_injective {id d d' : List Byte} {c c' : Byte} (h : frame id c d = frame id c' d') : c = c' ∧ d = d' := by
  have htail : c :: BitVec.ofNat 8 d.length :: d = c' :: BitVec.ofNat 8 d'.length :: d' := List.append_cancel_left h
  injection htail with hcode hrest
  injection hrest with _ hdata
  exact ⟨hcode, hdata⟩

end Sys2Proof

namespace Sys2Proof.Machine

/-! ## A delivered frame (40_codec.md R153; 10_state.md R61) -/

/-- The state a delivery leaves. -/
def delivered (bytes : List Byte) (s : State) : State := receiveReady { s with rxBuf := Memory.write [] 0 bytes, rxLen := bytes.length }

theorem portStep_rxDeliver {bytes : List Byte} (h : bytes.length ≤ Config.frameMax) (s : State) :
    portStep (.rxDeliver bytes) s = .next (delivered bytes s) :=
  if_neg (Nat.not_lt.mpr h)

@[simp] theorem readReceived_delivered (bytes : List Byte) (s : State) : readReceived (delivered bytes s) = .ok bytes := by
  rw [readReceived_ok_iff, delivered, receiveReady_eq]
  exact Memory.read_write_same _ _ _

@[simp] theorem readId_delivered (bytes : List Byte) (s : State) : readId (delivered bytes s) = readId s := by
  rw [delivered, receiveReady_eq]
  exact readId_congr rfl rfl

/-- Settles O3: the block's own reads are the decoder's, and the decoder takes a frame apart. -/
theorem deliveredFrameRoundTrip : Obligations.DeliveredFrameRoundTrip := by
  unfold Obligations.DeliveredFrameRoundTrip
  intro id wireId d f s hid hd hlength hcompared
  obtain ⟨-, hmax⟩ := (identifierFits_iff id).mp hid
  have hheader : decodeHeader id (frame wireId f d) = .ok ⟨f, d.length, id.length + 2⟩ := decodeHeader_frame f hd hlength hcompared
  have hdata : optionalDataOf (frame wireId f d) ⟨f, d.length, id.length + 2⟩ = d := optionalDataOf_frame _ _ _ _ (by rw [hlength])
  have hreceived := readReceived_delivered (frame wireId f d) s
  refine ⟨⟨_, portStep_rxDeliver (frame_fits (hlength ▸ hmax) hd) s, hreceived, fun hread => ?_, ?_⟩, hheader, hdata⟩
  · rw [readHeader_eq ((readId_delivered _ _).trans hread) hreceived, hheader]
  · exact (extractOptionalData_eq hreceived hheader).trans (congrArg _ hdata)

/-! ## The response encoder (40_codec.md R152, R154) -/

/-- A part of the frame to send is a MemRead of TX (20_memory.md R72). -/
theorem memRead_tx {s : State} {bs : List Byte} (h : readTransmit s = .ok bs) {off n : Nat} (hn : off + n ≤ bs.length) :
    memRead .tx off n s = .ok ((bs.drop off).take n) := by
  have hread := (readTransmit_ok_iff _ _).mp h
  have hlength := Memory.length_of_read _ _ _ _ hread
  have hslice := Memory.read_slice hread (a := off) (k := n) (by omega)
  rw [Nat.zero_add] at hslice
  exact (Memory.fetch_ok_iff _ _ _ _ _).mpr ⟨by omega, hslice⟩

/-- An encoder that has not ended the step has stored its frame. -/
theorem encodeResponse_eq_run {r : Byte} {d : List Byte} {s t : State} (h : encodeResponse r d s = .run t) :
    ∃ id, readId s = .ok id ∧ t = stored (frame id r d) s := by
  rcases encodeResponse_cases r d s with ⟨id, hid, -, -, hrun⟩ | ⟨f, hended⟩
  · exact ⟨id, hid, Flow.run.inj (h.symm.trans hrun)⟩
  · exact absurd (h.symm.trans hended) nofun

/-- Settles O7: the encoder stores its frame, whose bytes behind the identifier are the response identifier, the length and the data. -/
theorem encodeResponseInjective : Obligations.EncodeResponseInjective := by
  unfold Obligations.EncodeResponseInjective
  refine ⟨fun s t id d r hread h => ?_, fun s t t' r r' d d' h h' hsame => ?_⟩
  · obtain ⟨id', hread', rfl⟩ := encodeResponse_eq_run h
    obtain rfl : id = id' := Except.ok.inj (hread.symm.trans hread')
    have hsent := readTransmit_stored (frame id r d) s
    have hlength : (frame id r d).length = id.length + 2 + d.length := frame_length id r d
    have htail := frame_drop_identifier id r d
    refine ⟨?_, ?_, ?_⟩
    · rw [memRead_tx hsent (by omega), htail, List.take_succ_cons, List.take_zero]
    · rw [memRead_tx hsent (by omega), ← List.drop_drop, htail, List.drop_succ_cons, List.drop_zero, List.take_succ_cons, List.take_zero]
    · rw [memRead_tx hsent (by omega), frame_data, List.take_length]
  · obtain ⟨id, hread, rfl⟩ := encodeResponse_eq_run h
    obtain ⟨id', hread', rfl⟩ := encodeResponse_eq_run h'
    obtain rfl : id = id' := Except.ok.inj (hread.symm.trans hread')
    rw [readTransmit_stored, readTransmit_stored] at hsame
    exact frame_injective (Except.ok.inj hsame)

/-! ## The steps of the receive service (40_codec.md R160 to R163) -/

/-- Settles O13: the three steps are their phase's, with a frame waiting in RxPoll and INT_SAVE written in RxEnd. -/
theorem receiveServiceBracket : Obligations.ReceiveServiceBracket := by
  unfold Obligations.ReceiveServiceBracket
  refine ⟨fun s s0 hturn hphase hdata hidle => ?_, fun s s0 hturn hphase => ?_, fun s s0 b hturn hphase hsave => ?_⟩
  all_goals rw [step_of_seqTurn hturn, phaseStep, hphase]
  · simp [rxPoll, frameWaiting, hdata, hidle]
  · rfl
  · simp [rxEnd, hsave, Flow.outcome]

theorem step_rxDecode {s s0 : State} (hturn : SeqTurn s s0) (hphase : s0.seqPhase = .rxDecode) : step s = rxDecode s0 := by
  rw [step_of_seqTurn hturn, phaseStep, hphase]

section Decode

variable {s s0 : State} {id rx : List Byte} {cfg : ModemConfig}

/-- A SEQ turn in RxDecode of bytes that decode counts the frame as valid and executes the instruction. -/
theorem step_rxDecode_ok {i : Instr} (hturn : SeqTurn s s0) (hphase : s0.seqPhase = .rxDecode) (hid : readId s0 = .ok id)
    (hrx : readReceived s0 = .ok rx) (hcfg : s0.curCfg = .holds cfg) (hdecode : decode s0.par id rx = .ok i) :
    step s = exec i (countFrame cfg.modemType true s0) := by
  rw [step_rxDecode hturn hphase, rxDecode_of_reads hid hrx hcfg, hdecode]

/-- A SEQ turn in RxDecode of bytes that do not decode counts the frame as invalid, logs the error and ends the service. -/
theorem step_rxDecode_error {e : DecodeError} (hturn : SeqTurn s s0) (hphase : s0.seqPhase = .rxDecode) (hid : readId s0 = .ok id)
    (hrx : readReceived s0 = .ok rx) (hcfg : s0.curCfg = .holds cfg) (hdecode : decode s0.par id rx = .error e) :
    step s = .next (silentEnd (decodeErrorLog e) (countFrame cfg.modemType false s0)) := by
  rw [step_rxDecode hturn hphase, rxDecode_of_reads hid hrx hcfg, hdecode]

end Decode

/-- Settles O10: the counter call is the one event before the instruction. -/
theorem stepRunsDecodedInstruction : Obligations.StepRunsDecodedInstruction := by
  unfold Obligations.StepRunsDecodedInstruction
  exact fun _ _ _ _ _ _ => step_rxDecode_ok

/-- Settles O11: the two events are the whole effect but for SEQ_PHASE. -/
theorem decodeErrorIsSilent : Obligations.DecodeErrorIsSilent := by
  unfold Obligations.DecodeErrorIsSilent
  intro s s0 id rx cfg e hturn hphase hid hrx hcfg hdecode
  rw [step_rxDecode_error hturn hphase hid hrx hcfg hdecode]
  simp [silentEnd, countFrame, State.call]

/-! ### The frame counter (40_codec.md R162)

No instruction makes a counter call, so the one of RxDecode is the only one of its step. -/

/-- The counter events of TRACE. -/
def State.counters (s : State) : List Event := s.trace.filter Event.isCounter

theorem State.counters_of_trace {s t : State} {es : List Event} (h : t.trace = s.trace ++ es) :
    t.counters = s.counters ++ es.filter Event.isCounter := by
  rw [State.counters, h, List.filter_append, State.counters]

/-- Events that are no counter events leave the counter events as they are. -/
theorem State.counters_append (s : State) {t : State} {es : List Event} (h : t.trace = s.trace ++ es)
    (hes : es.filter Event.isCounter = [] := by rfl) : t.counters = s.counters := by
  rw [State.counters_of_trace h, hes, List.append_nil]

@[simp] theorem counters_selectCmd (c : Command) (s : State) : (s.selectCmd c).counters = s.counters := rfl

@[simp] theorem counters_raise (f : Fault) (s : State) : (s.raise f).counters = s.counters := rfl

@[simp] theorem counters_silentEnd (e : LogEntry) (s : State) : (silentEnd e s).counters = s.counters := s.counters_append rfl

@[simp] theorem counters_countFrame (m : ModemType) (v : Bool) (s : State) :
    (countFrame m v s).counters = s.counters ++ [.call .storage (.incrementFrameCounter m v)] :=
  State.counters_of_trace (es := [.call .storage (.incrementFrameCounter m v)]) rfl

theorem counters_answer (r : Byte) (d : List Byte) (ov : Bool) (s : State) :
    ((encodeResponse r d s).andThen (requestTransmit ov)).state.counters = s.counters := by
  rcases encodeResponse_cases r d s with ⟨id, -, -, -, h⟩ | ⟨f, h⟩ <;> rw [h]
  · rw [Flow.andThen_run, requestTransmit_eq]
    split <;> rfl
  · rfl

theorem counters_applyCustom (d : List Byte) (s : State) : (applyCustom d s).state.counters = s.counters := by
  rcases applyCustom_cases d s with ⟨-, h⟩ | ⟨cur, -, ⟨k, -, h⟩ | ⟨-, h⟩⟩ <;> rw [h]
  · rfl
  · exact s.counters_append (List.append_assoc _ _ _)
  · rw [counters_answer]
    exact s.counters_append rfl

/-- Whichever collaborator answers a field, its read is no counter event. -/
theorem isCounter_readField (who : Collaborator) (k : Nat) (v : RealValue) : (Event.call who (.readField k v)).isCounter = false := by
  cases who <;> rfl

theorem counters_readFields (n : Nat) : ∀ (k : Nat) (s : State), (readFields k n s).2.counters = s.counters := by
  induction n with
  | zero => exact fun _ _ => rfl
  | succ n ih => exact fun k s => (ih _ _).trans (s.counters_append rfl (by simp [isCounter_readField]))

theorem counters_logFields (bs : List Byte) : ∀ (k : Nat) (s : State), (logFields k bs s).counters = s.counters := by
  induction bs with
  | nil => exact fun _ _ => rfl
  | cons b bs ih => exact fun k s => (ih _ _).trans (s.counters_append rfl)

theorem counters_telemetryLogged (s : State) : (telemetryLogged s).counters = s.counters :=
  calc (telemetryLogged s).counters
    _ = (telemetry (s.selectCmd .transmitSystemInfo)).2.counters := counters_logFields _ _ _
    _ = (callBusVoltage (s.selectCmd .transmitSystemInfo)).counters := counters_readFields _ _ _
    _ = s.counters := s.counters_append rfl

theorem counters_packetInfoRead (s : State) : (packetInfoRead s).counters = s.counters :=
  s.counters_append (List.append_assoc _ _ _)

theorem counters_exec {i : Instr} {s t : State} (h : exec i s = .next t) : t.counters = s.counters := by
  rcases exec_eq i s with ⟨r, d, s1, h', hshape⟩ | ⟨e, h', -⟩ | ⟨-, -, h'⟩ <;> rw [h'] at h <;> cases h
  · refine (counters_answer r d false s1).trans ?_
    rcases hshape with ⟨-, -, -, rfl⟩ | ⟨-, -, -, rfl⟩ | ⟨-, -, -, rfl⟩ | ⟨-, -, -, rfl⟩ | ⟨f, -, -, rfl⟩
    · exact counters_selectCmd _ s
    · exact counters_selectCmd _ s
    · exact counters_telemetryLogged s
    · exact counters_packetInfoRead s
    · exact counters_selectCmd _ s
  · rw [counters_silentEnd, counters_selectCmd]
  · rw [counters_applyCustom, counters_selectCmd]

/-- Where TRACE has grown, the counter events of a step are the ones it has added. -/
theorem filter_newEvents {s t : State} (h : s.trace <+: t.trace) {es : List Event} (hes : t.counters = s.counters ++ es) :
    (newEvents s t).filter Event.isCounter = es := by
  obtain ⟨added, hadded⟩ := h
  rw [newEvents, ← hadded, List.drop_left]
  exact List.append_cancel_left ((State.counters_of_trace hadded.symm).symm.trans hes)

/-- Settles O12: RxDecode makes its counter call whether or not the bytes decode, and the instruction that follows makes none. -/
theorem everyDecodeIsCountedOnce : Obligations.EveryDecodeIsCountedOnce := by
  unfold Obligations.EveryDecodeIsCountedOnce
  intro s s0 t id rx cfg hturn hphase hid hrx hcfg hstep
  have hs0 : s0 = (nextTurn s).2 := by rw [hturn.1]
  have hcounters : s0.counters = s.counters := by rw [hs0, nextTurn_eq]; rfl
  have hgrows : s.trace <+: t.trace := (step_traced hstep (by rw [hturn.1]; nofun)).trace_grows
  refine filter_newEvents hgrows ?_
  rw [← isOk_decode s0.par, ← hcounters]
  cases hdecode : decode s0.par id rx with
  | error e =>
    rw [step_rxDecode_error hturn hphase hid hrx hcfg hdecode] at hstep
    cases hstep
    rw [counters_silentEnd, counters_countFrame]
    rfl
  | ok i =>
    rw [step_rxDecode_ok hturn hphase hid hrx hcfg hdecode] at hstep
    rw [counters_exec hstep, counters_countFrame]
    rfl

end Sys2Proof.Machine

namespace Sys2Proof.Machine

/-! ## The commands: results and completion (41_commands.md R185 to R214) -/

/-- An answer while the FSM is idle stores its frame and requests the transmission (41_commands.md R180, R183). -/
theorem answer_outcome {s : State} {id d : List Byte} (r : Byte) (ov : Bool) (hid : IdReady s id) (hd : d.length ≤ Config.optMax)
    (hidle : s.txState = .idle) :
    ((encodeResponse r d s).andThen (requestTransmit ov)).outcome = .next (requested ov (stored (frame id r d) s)) := by
  rw [encodeResponse_run r hid.1 hid.2 hd]
  exact congrArg Flow.outcome (if_pos hidle)

/-! ### RETRANSMIT (41_commands.md R188, R189) -/

theorem exec_retransmit {s : State} {id d : List Byte} (hid : IdReady s id) (hidle : s.txState = .idle)
    (hd : d.length ≤ Config.optMax) :
    exec (.retransmit d) s
      = .next (requested false (stored (frame id s.par.respRepeatedMessage d) (s.selectCmd .retransmit))) :=
  answer_outcome (s := s.selectCmd .retransmit) _ false hid hd hidle

/-- Settles O16: the frame that RETRANSMIT stores holds the data behind their number, as every encoded response does. -/
theorem retransmitEchoesVerbatim : Obligations.RetransmitEchoesVerbatim := by
  unfold Obligations.RetransmitEchoesVerbatim
  intro s id d hid hidle hd
  have hencode := encodeResponse_run (s := s.selectCmd .retransmit) s.par.respRepeatedMessage hid.1 hid.2 hd
  obtain ⟨-, hlength, hdata⟩ := encodeResponseInjective.1 (s.selectCmd .retransmit) _ id d _ hid.1 hencode
  exact ⟨_, exec_retransmit hid hidle hd, sends_requested_stored _ _ _ _ _, hdata, hlength, rfl, rfl, rfl⟩

/-! ### RETRANSMIT_CUSTOM (41_commands.md R195, R197) -/

theorem customAccepted_iff (p : Params) (d : List Byte) :
    customAccepted p d = true ↔
      8 ≤ d.length ∧ d.length ≤ 39 ∧ (d.getD 0 0).toNat ≤ 7 ∧ (d.getD 5 0 = 0 ∨ d.getD 5 0 = 1)
        ∧ configAccepts p.loraCfgValid (cfgFromCustom p d) = true := by
  simp only [customAccepted, customShapeOk, Bool.and_eq_true, Bool.or_eq_true, decide_eq_true_eq, and_assoc]
  rfl

theorem exec_retransmitCustom_accepted {s : State} {d : List Byte} (h : customAccepted s.par d = true) :
    exec (.retransmitCustom d) s = (applyCustom d (s.selectCmd .retransmitCustom)).outcome :=
  if_pos h

theorem exec_retransmitCustom_skipped {s : State} {d : List Byte} (h : ¬ customAccepted s.par d = true) :
    exec (.retransmitCustom d) s = .next (silentEnd .commandPrecondition (s.selectCmd .retransmitCustom)) :=
  if_neg h

/-- Settles O18: each of the failures refutes one of the preconditions. -/
theorem customSkipsSilently : Obligations.CustomSkipsSilently := by
  unfold Obligations.CustomSkipsSilently
  intro s d hunmet
  refine exec_retransmitCustom_skipped fun haccepted => ?_
  obtain ⟨hmin, hmax, hbandwidth, hcrc, hvalid⟩ := (customAccepted_iff _ _).mp haccepted
  rcases hunmet with hshort | hlong | hindex | ⟨hzero, hone⟩ | hinvalid
  · omega
  · omega
  · omega
  · exact hcrc.elim hzero hone
  · exact Bool.false_ne_true (hinvalid.symm.trans hvalid)

/-- The state from which RETRANSMIT_CUSTOM answers: the configuration in force is saved and the override applied (41_commands.md R195, R200). -/
def overridden (cfg cur : ModemConfig) (s : State) : State :=
  { callBegin cfg { s with restoreCfg := .holds cur, restorePending := true } with curCfg := .holds cfg }

theorem applyCustom_of_ok {s : State} (d : List Byte) {cur : ModemConfig} (hcur : s.curCfg = .holds cur)
    (hlink : s.env.linkStatus = .ok) :
    applyCustom d s
      = (encodeResponse s.par.respRepeatedMessageCustom (echoOf d) (overridden (cfgFromCustom s.par d) cur s)).andThen
          (requestTransmit true) := by
  rcases applyCustom_cases d s with ⟨hunwritten, -⟩ | ⟨cur', hcur', ⟨k, hfailed, -⟩ | ⟨-, happly⟩⟩
  · rw [hcur] at hunwritten
    cases hunwritten
  · cases hlink.symm.trans hfailed
  · obtain rfl := Reg.holds.inj (hcur.symm.trans hcur')
    exact happly

theorem exec_retransmitCustom_ok {s : State} {id d : List Byte} {cur : ModemConfig} (haccepted : customAccepted s.par d = true)
    (hid : IdReady s id) (hidle : s.txState = .idle) (hcur : s.curCfg = .holds cur) (hlink : s.env.linkStatus = .ok) :
    exec (.retransmitCustom d) s
      = .next (requested true (stored (frame id s.par.respRepeatedMessageCustom (echoOf d))
          (overridden (cfgFromCustom s.par d) cur (s.selectCmd .retransmitCustom)))) := by
  have hecho : (echoOf d).length ≤ Config.optMax := by
    obtain ⟨-, hmax, -⟩ := (customAccepted_iff _ _).mp haccepted
    rw [echoOf, List.length_drop, Config.optMax]
    omega
  have happly := applyCustom_of_ok (s := s.selectCmd .retransmitCustom) d hcur hlink
  rw [exec_retransmitCustom_accepted haccepted, happly]
  exact answer_outcome _ true hid hecho hidle

/-- Settles O17: with its preconditions met, the override goes through the encoder to the transmit request. -/
theorem customAppliesAndEchoes : Obligations.CustomAppliesAndEchoes := by
  unfold Obligations.CustomAppliesAndEchoes
  intro s id d cur hid hidle hcur hmin hmax hbandwidth hcrc hvalid hlink
  have haccepted := (customAccepted_iff s.par d).mpr ⟨hmin, hmax, hbandwidth, hcrc, hvalid⟩
  refine ⟨_, exec_retransmitCustom_ok haccepted hid hidle hcur hlink, sends_requested_stored _ _ _ _ _, rfl, rfl, rfl, ?_, rfl, rfl⟩
  rw [← hlink]
  rfl

/-! ### UNKNOWN and PRIVATE (41_commands.md R212, R214) -/

/-- Settles O24: UNKNOWN is the silent end of the service with its own log. -/
theorem unknownIsLoggedAndDropped : Obligations.UnknownIsLoggedAndDropped := by
  unfold Obligations.UnknownIsLoggedAndDropped
  exact fun _ _ _ => rfl

theorem exec_privateCmd_none {s : State} {f : Byte} {d : List Byte} (h : handlerAnswer s.par.handler f d = none) :
    exec (.privateCmd f d) s = .next (silentEnd (.privateFrame f) (s.selectCmd (.privateCmd f))) := by
  rw [exec, execPrivate, h]

theorem exec_privateCmd_some {s : State} {f r : Byte} {d payload : List Byte}
    (h : handlerAnswer s.par.handler f d = some (r, payload)) :
    exec (.privateCmd f d) s = (respond r payload (s.selectCmd (.privateCmd f))).outcome := by
  rw [exec, execPrivate, h]

/-- Settles O25: the two answers of the handler, and the default handler, which lists no frame. -/
theorem privateGoesToTheHandler : Obligations.PrivateGoesToTheHandler := by
  unfold Obligations.PrivateGoesToTheHandler
  refine ⟨fun s f d hnone => exec_privateCmd_none hnone, fun s id d f r payload hid hidle hsome hfits => ?_, fun f d => rfl⟩
  exact ⟨_, (exec_privateCmd_some hsome).trans (answer_outcome (s := s.selectCmd (.privateCmd f)) r false hid hfits hidle),
    sends_requested_stored _ _ _ _ _, rfl, rfl, rfl⟩

/-! ### RxPost (41_commands.md R182) -/

theorem refusedOverride_iff (c : Command) (r : TxResult) (s : State) :
    refusedOverride c r s = true ↔ c = .retransmitCustom ∧ r = .txDisabled ∧ s.restorePending = true := by
  simp only [refusedOverride, Bool.and_eq_true, decide_eq_true_eq, and_assoc]

section Post

variable {s s0 : State} {c : Command} {r : TxResult} {cfg : ModemConfig}

theorem step_rxPost (hturn : SeqTurn s s0) (hphase : s0.seqPhase = .rxPost) (hcmd : s0.rxCmd = .holds c)
    (hresult : s0.txResult = .holds r) :
    step s = ((if refusedOverride c r s0 then restoreModem s0 else .run s0).andThen fun s1 => .run (posted r s1)).outcome := by
  rw [step_of_seqTurn hturn, phaseStep, hphase]
  simp only [rxPost, hcmd, hresult, Reg.use_holds, posted]

theorem restoreModem_ok (hrestore : s.restoreCfg = .holds cfg) (hlink : s.env.linkStatus = .ok) :
    restoreModem s = .run (restored cfg s) := by
  rw [restoreModem, hrestore, Reg.use_holds, setModem_ok cfg hlink]
  rfl

theorem restoreModem_err {k : LinkErr} (hrestore : s.restoreCfg = .holds cfg) (hlink : s.env.linkStatus = .err k) :
    restoreModem s = .ended (takeLinkFault k (callBegin cfg s)) := by
  rw [restoreModem, hrestore, Reg.use_holds, setModem_err cfg hlink]
  rfl

end Post

/-- Settles O14: without a refused override RxPost only logs the result; after one it is `restoreModem`, with either answer of the driver. -/
theorem postLogsAndRestores : Obligations.PostLogsAndRestores := by
  unfold Obligations.PostLogsAndRestores
  refine ⟨fun s s0 c r hturn hphase hcmd hresult hkept => ?_,
    fun s s0 cfg hturn hphase hcmd hresult hpending hrestore => ⟨fun hlink => ?_, fun k hlink => ?_⟩⟩
  · rw [step_rxPost hturn hphase hcmd hresult, if_neg (mt (refusedOverride_iff c r s0).mp hkept), Flow.andThen_run]
    cases r with
    | ok => simp [Flow.outcome, posted, logResult]
    | txTimeout | txDisabled | startError => rfl
  all_goals rw [step_rxPost hturn hphase hcmd hresult, if_pos ((refusedOverride_iff _ _ s0).mpr ⟨rfl, rfl, hpending⟩)]
  · rw [restoreModem_ok hrestore hlink]
    simp [Flow.outcome, posted, logResult, restored, callBegin, State.call, State.log, hlink]
  · rw [restoreModem_err hrestore hlink]
    simp [Flow.outcome, takeLinkFault, callBegin, State.call, hlink]

end Sys2Proof.Machine


namespace Sys2Proof.Machine

/-! ## Telemetry (41_commands.md R205 to R208) -/

/-! ### TRANSMIT_SYSTEM_INFO -/

/-- The readings of TRANSMIT_SYSTEM_INFO, the bytes it makes of them, and the events of both in the order of 41_commands.md R205. -/
theorem telemetryLogged_readings (s : State) (h : 1 ≤ s.par.nSysInfo) :
    ∃ vs : List RealValue, vs.length = s.par.nSysInfo - 1
      ∧ (telemetry (s.selectCmd .transmitSystemInfo)).1
        = quantizeVoltage s.par s.env.busVoltage
          :: List.zipWith Config.fieldQuantizer (List.range' 1 (s.par.nSysInfo - 1)) (vs.map RealValue.floorMul)
      ∧ (telemetryLogged s).trace
        = s.trace ++ .call .sensors (.readBusVoltage s.env.busVoltage)
          :: (List.zipWith (fun k x => Event.call (Config.fieldSource k) (.readField k x)) (List.range' 1 (s.par.nSysInfo - 1)) vs
            ++ List.zipWith (fun k b => Event.log (.sysInfoField k b)) (List.range s.par.nSysInfo)
              (telemetry (s.selectCmd .transmitSystemInfo)).1) := by
  obtain ⟨vs, hvs, hbytes, hstate, -⟩ := telemetry_eq (s.selectCmd .transmitSystemInfo) h
  have hlength : (telemetry (s.selectCmd .transmitSystemInfo)).1.length = s.par.nSysInfo := by
    rw [hbytes, List.length_cons, List.length_zipWith, List.length_map, List.length_range', hvs]
    exact (congrArg (· + 1) (Nat.min_self _)).trans (Nat.sub_add_cancel h)
  refine ⟨vs, hvs, hbytes, ?_⟩
  rw [telemetryLogged, logFields_eq, hlength, hstate, List.range_eq_range']
  exact List.append_assoc _ _ _

theorem exec_transmitSystemInfo {s : State} {id : List Byte} (d : List Byte) (hid : IdReady s id) (hidle : s.txState = .idle)
    (hfits : s.par.nSysInfo ≤ Config.optMax) :
    exec (.transmitSystemInfo d) s
      = .next (requested false (stored (frame id s.par.respSystemInfo (telemetry (s.selectCmd .transmitSystemInfo)).1)
          (telemetryLogged s))) := by
  obtain ⟨-, -, -, -, hlength⟩ := telemetry_frame (s.selectCmd .transmitSystemInfo)
  have hread : readId (telemetryLogged s) = readId s := readId_congr (by rw [telemetryLogged_eq]) (by rw [telemetryLogged_eq])
  exact answer_outcome (s := telemetryLogged s) _ false ⟨hread.trans hid.1, hid.2⟩ (hlength.trans hfits)
    (by rw [telemetryLogged_eq, hidle])

/-- The reference quantizer of the bus voltage, on the real reading (41_commands.md R206). -/
theorem quantizeVoltage_reference {p : Params} {v : RealValue} {x : ℝ} (hq : p.quantizer = .reference) (hm : p.voltageMultiplier ≠ 0)
    (hx : IsCutOf v.floorMul x) :
    ((quantizeVoltage p v).toNat : Int) = min 255 (max 0 ⌊x * 1000 / (p.voltageMultiplier : ℝ)⌋) := by
  have hfloor : v.floorMul (1000 / p.voltageMultiplier) = ⌊x * 1000 / (p.voltageMultiplier : ℝ)⌋ := by
    rw [hx, Rat.cast_div, Rat.cast_ofNat, mul_div_assoc]
  rw [quantizeVoltage, hq]
  simp only [hm, if_false, hfloor, BitVec.toNat_ofNat]
  omega

/-- Settles O21: the readings are those of `telemetryLogged_readings`, and the answer is sent from the state their logs leave. -/
theorem systemInfoSendsTelemetry : Obligations.SystemInfoSendsTelemetry := by
  unfold Obligations.SystemInfoSendsTelemetry
  refine ⟨fun s id d hid hidle hone hfits => ?_, fun p v x hq hm hx => quantizeVoltage_reference hq hm hx⟩
  obtain ⟨vs, hvs, hbytes, htrace⟩ := telemetryLogged_readings s hone
  refine ⟨_, s.env.busVoltage, vs, _, exec_transmitSystemInfo d hid hidle hfits, hvs, hbytes, htrace,
    sends_requested_stored _ _ _ _ _, ?_, ?_⟩
  · exact (congrArg State.rxCmd (telemetryLogged_eq s) :)
  · exact (congrArg State.fault (telemetryLogged_eq s) :)

/-! ### GET_LAST_PACKET_INFO -/

theorem exec_getLastPacketInfo {s : State} {id : List Byte} (d : List Byte) (hid : IdReady s id) (hidle : s.txState = .idle) :
    exec (.getLastPacketInfo d) s
      = .next (requested false (stored (frame id s.par.respPacketInfo (packetInfo (s.selectCmd .getLastPacketInfo)).1)
          (packetInfoRead s))) := by
  obtain ⟨-, -, hlength⟩ := packetInfo_frame (s.selectCmd .getLastPacketInfo)
  exact answer_outcome (s := packetInfoRead s) _ false hid (hlength.trans_le (by decide)) hidle

theorem byteOrAny_within {lo hi a : Int} (e : Env) (hlo : lo ≤ a) (hhi : a ≤ hi) : (byteOrAny lo hi a e).1 = Byte.ofResidue a := by
  rw [byteOrAny, if_pos ⟨hlo, hhi⟩]

theorem ofResidue_toInt {a : Int} (hlo : -128 ≤ a) (hhi : a ≤ 127) : (Byte.ofResidue a).toInt = a := by
  rw [Byte.ofResidue, BitVec.toInt_ofInt]
  exact Int.bmod_eq_of_le (by omega) (by omega)

theorem ofResidue_toNat {a : Int} (hlo : 0 ≤ a) (hhi : a ≤ 255) : ((Byte.ofResidue a).toNat : Int) = a := by
  rw [Byte.ofResidue, BitVec.toNat_ofInt]
  omega

/-- Settles O22: the two readings stand for reals, and a byte in range is the residue of its rounding. -/
theorem packetInfoSendsReadings : Obligations.PacketInfoSendsReadings := by
  unfold Obligations.PacketInfoSendsReadings
  intro s id d hid hidle
  obtain ⟨x, hx⟩ := exists_real s.env.snr
  obtain ⟨y, hy⟩ := exists_real s.env.popSnr.rssi
  have hx4 : IsCutOf (scaled s.env.snr 4) (x * 4) := by simpa using isCutOf_scaled hx 4
  have hy2 : IsCutOf (scaled s.env.popSnr.rssi (-2)) (y * -2) := by simpa using isCutOf_scaled hy (-2)
  refine ⟨_, _, _, x, y, _, _, _, _, exec_getLastPacketInfo d hid hidle, List.append_assoc _ _ _, hx, hx4, rfl, hy, hy2, rfl,
    sends_requested_stored _ _ _ _ _, fun hlo hhi => ?_, fun hlo hhi => ?_, rfl, rfl⟩
  · exact (congrArg BitVec.toInt (byteOrAny_within _ hlo hhi)).trans (ofResidue_toInt hlo hhi)
  · exact (congrArg (fun b : Byte => (b.toNat : Int)) (byteOrAny_within _ hlo hhi)).trans (ofResidue_toNat hlo hhi)

end Sys2Proof.Machine


namespace Sys2Proof.Machine

/-! ## The frames of the commands (41_commands.md R184, R185 to R214)

A command first writes RX_CMD, reads and logs (`Prepares`), RETRANSMIT_CUSTOM switches the modem as well, and it ends in an answer or in
silence (`Concludes`). What a whole command may change is read off the two. -/

/-- Work that writes RX_CMD alone, extends TRACE without a `begin` call, and takes answers from ENV. -/
structure Prepares (s t : State) : Prop where
  writes : ∃ c tr e, t = { s with rxCmd := c, trace := tr, env := e }
  traced : ∃ es, t.trace = s.trace ++ es ∧ ∀ items r, Event.call .radio (.begin items r) ∉ es
  schedule : t.env.schedule = s.env.schedule
  now : t.env.now = s.env.now

/-- The writes that end a command: those of an answer and its faults, or of a silent end. -/
def Concludes (s t : State) : Prop :=
  ∃ m n ov x ph fs, t = { s with txBuf := m, txLen := n, txOverride := ov, txState := x, seqPhase := ph, fault := fs }

namespace Prepares

variable {s t u : State}

protected theorem refl (s : State) : Prepares s s :=
  ⟨⟨_, _, _, rfl⟩, ⟨[], (List.append_nil _).symm, fun _ _ => List.not_mem_nil⟩, rfl, rfl⟩

theorem trans (hst : Prepares s t) (htu : Prepares t u) : Prepares s u := by
  obtain ⟨es, htrace, hes⟩ := hst.traced
  obtain ⟨fs, htrace', hfs⟩ := htu.traced
  refine ⟨?_, ⟨es ++ fs, by rw [htrace', htrace, List.append_assoc], fun items r hmem => ?_⟩, htu.schedule.trans hst.schedule,
    htu.now.trans hst.now⟩
  · obtain ⟨_, _, _, rfl⟩ := hst.writes
    obtain ⟨_, _, _, rfl⟩ := htu.writes
    exact ⟨_, _, _, rfl⟩
  · exact (List.mem_append.mp hmem).elim (hes items r) (hfs items r)

theorem selectCmd {c : Command} (h : Prepares s t) : Prepares s (t.selectCmd c) :=
  h.trans ⟨⟨_, _, _, rfl⟩, (Prepares.refl t).traced, rfl, rfl⟩

theorem log {e : LogEntry} (h : Prepares s t) : Prepares s (t.log e) :=
  h.trans ⟨⟨_, _, _, rfl⟩, ⟨_, rfl, fun _ _ => by simp⟩, rfl, rfl⟩

/-- A collaborator call other than `begin`, whose answer leaves ENV's schedule and the time. -/
theorem call {c : Call} {env : Env} (h : Prepares s t) (hc : ∀ items r, c ≠ .begin items r := by nofun)
    (schedule : env.schedule = t.env.schedule := by rfl) (now : env.now = t.env.now := by rfl) : Prepares s (t.call c env) :=
  h.trans ⟨⟨_, _, _, rfl⟩, ⟨_, rfl, fun items r hmem => hc items r (Event.call.inj (List.mem_singleton.mp hmem)).2.symm⟩, schedule, now⟩

theorem withEnv {env : Env} (h : Prepares s t) (schedule : env.schedule = t.env.schedule) (now : env.now = t.env.now) :
    Prepares s (t.withEnv env) :=
  h.trans ⟨⟨_, _, _, rfl⟩, (Prepares.refl t).traced, schedule, now⟩

theorem readFields (n : Nat) : ∀ {k : Nat} {t : State}, Prepares s t → Prepares s (readFields k n t).2 := by
  induction n with
  | zero => exact id
  | succ n ih => exact fun h => ih (h.call)

theorem logFields (bs : List Byte) : ∀ {k : Nat} {t : State}, Prepares s t → Prepares s (logFields k bs t) := by
  induction bs with
  | nil => exact id
  | cons b bs ih => exact fun h => ih h.log

theorem telemetryLogged (s : State) : Prepares s (telemetryLogged s) :=
  logFields _ (readFields _ (Prepares.refl s).selectCmd.call)

theorem packetInfoRead (s : State) : Prepares s (packetInfoRead s) := by
  obtain ⟨hschedule, hnow, -⟩ := packetInfo_frame (s.selectCmd .getLastPacketInfo)
  exact (Prepares.refl s).selectCmd.call.call.withEnv hschedule hnow

end Prepares

/-! ### The end of a command -/

theorem storesFrame_stored {s : State} {id : List Byte} (r : Byte) (d : List Byte) (hid : readId s = .ok id) :
    StoresFrame s (stored (frame id r d) s) r d :=
  .inr ⟨id, hid, frame_length id r d, readTransmit_stored _ s, fun a ha =>
    Memory.byte_write_above _ _ _ _ (by rw [frame_length, Nat.zero_add]; exact ha)⟩

/-- An answer writes what a conclusion may, and TXBUF by its own frame alone (40_codec.md R152). -/
theorem concludes_of_answer {r : Byte} {d : List Byte} {ov : Bool} {s t : State}
    (h : ((encodeResponse r d s).andThen (requestTransmit ov)).state = t) : Concludes s t ∧ StoresFrame s t r d := by
  rcases encodeResponse_cases r d s with ⟨id, hid, -, -, hencode⟩ | ⟨f, hencode⟩ <;> rw [hencode] at h
  · have hstores := storesFrame_stored r d hid
    rw [Flow.andThen_run, requestTransmit_eq] at h
    split at h <;> subst h
    · exact ⟨⟨_, _, _, _, _, _, rfl⟩, hstores⟩
    · exact ⟨⟨_, _, _, _, _, _, rfl⟩, hstores⟩
  · subst h
    exact ⟨⟨_, _, _, _, _, _, rfl⟩, .inl ⟨rfl, rfl⟩⟩

theorem concludes_of_respond {r : Byte} {d : List Byte} {s t : State} (h : (respond r d s).outcome = .next t) :
    Concludes s t ∧ StoresFrame s t r d :=
  concludes_of_answer ((Flow.outcome_eq_next_iff _ _).mp h)

/-! ### PING, RETRANSMIT and an answered PRIVATE -/

/-- The meaning of an instruction is that of its command with its data. -/
theorem exec_of_command {i : Instr} {c : Command} (h : i.command = c) (s : State) : exec i s = exec (c.toInstr i.data) s := by
  rw [← h, toInstr_command]

/-- Settles O26: each of the three is `respond` right after the write of RX_CMD. -/
theorem plainResponderFrame : Obligations.PlainResponderFrame := by
  unfold Obligations.PlainResponderFrame
  intro i s t r d hplain hexec
  have hrespond : ∃ c, (respond r d (s.selectCmd c)).outcome = .next t := by
    rcases hplain with ⟨hc, rfl, rfl⟩ | ⟨hc, rfl, rfl⟩ | ⟨f, hc, hanswer⟩ <;> rw [exec_of_command hc] at hexec
    · exact ⟨_, hexec⟩
    · exact ⟨_, hexec⟩
    · exact ⟨_, (exec_privateCmd_some hanswer).symm.trans hexec⟩
  obtain ⟨c, hrespond⟩ := hrespond
  obtain ⟨⟨_, _, _, _, _, _, rfl⟩, hstores⟩ := concludes_of_respond hrespond
  exact ⟨rfl, hstores⟩

/-! ### TRANSMIT_SYSTEM_INFO and GET_LAST_PACKET_INFO -/

/-- A command that answers after its preparation. -/
theorem Prepares.frame_of_respond {s s1 t : State} {r : Byte} {d : List Byte} (h : Prepares s s1)
    (hrespond : (respond r d s1).outcome = .next t) :
    (t = { s with
            rxCmd := t.rxCmd, txBuf := t.txBuf, txLen := t.txLen, txOverride := t.txOverride, txState := t.txState,
            seqPhase := t.seqPhase, fault := t.fault, trace := t.trace, env := t.env }
        ∧ s.trace <+: t.trace ∧ t.env.schedule = s.env.schedule ∧ t.env.now = s.env.now)
      ∧ StoresFrame s t r d := by
  obtain ⟨⟨_, _, _, rfl⟩, ⟨es, htrace, -⟩, hschedule, hnow⟩ := h
  obtain ⟨⟨_, _, _, _, _, _, rfl⟩, hstores⟩ := concludes_of_respond hrespond
  exact ⟨⟨rfl, ⟨es, htrace.symm⟩, hschedule, hnow⟩, hstores⟩

/-- Settles O27: both commands are `respond` after reads and logs, the first of at most N_SYSINFO bytes and the second of two. -/
theorem telemetryFrame : Obligations.TelemetryFrame := by
  unfold Obligations.TelemetryFrame
  intro i s t hcommand hexec
  rcases hcommand with hc | hc <;> rw [exec_of_command hc] at hexec <;> rw [hc]
  · obtain ⟨⟨hframe, hgrows, hschedule, hnow⟩, hstores⟩ := (Prepares.telemetryLogged s).frame_of_respond hexec
    obtain ⟨-, -, -, -, hlength⟩ := telemetry_frame (s.selectCmd .transmitSystemInfo)
    exact ⟨hframe, hgrows, hschedule, hnow, fun _ => ⟨_, hlength, hstores⟩, nofun⟩
  · obtain ⟨⟨hframe, hgrows, hschedule, hnow⟩, hstores⟩ := (Prepares.packetInfoRead s).frame_of_respond hexec
    exact ⟨hframe, hgrows, hschedule, hnow, nofun, fun _ => ⟨_, _, hstores⟩⟩

/-! ### RETRANSMIT_CUSTOM -/

/-- Settles O28: an override that is refused, skipped or stopped by a fault leaves TXBUF, and an accepted one ends in an answer. -/
theorem customFrame : Obligations.CustomFrame := by
  unfold Obligations.CustomFrame
  intro d s t hexec
  by_cases haccepted : customAccepted s.par d = true
  · rw [exec_retransmitCustom_accepted haccepted] at hexec
    have happlied : (applyCustom d (s.selectCmd .retransmitCustom)).state = t := (Flow.outcome_eq_next_iff _ _).mp hexec
    rcases applyCustom_cases d (s.selectCmd .retransmitCustom) with ⟨-, h⟩ | ⟨cur, -, ⟨k, -, h⟩ | ⟨-, h⟩⟩ <;> rw [h] at happlied
    · subst happlied
      exact ⟨rfl, List.prefix_rfl, rfl, rfl, .inl ⟨rfl, rfl⟩⟩
    · subst happlied
      exact ⟨rfl, ⟨_, (List.append_assoc _ _ _).symm⟩, rfl, rfl, .inl ⟨rfl, rfl⟩⟩
    · obtain ⟨⟨_, _, _, _, _, _, rfl⟩, hstores⟩ := concludes_of_answer happlied
      exact ⟨rfl, List.prefix_append _ _, rfl, rfl, hstores⟩
  · rw [exec_retransmitCustom_skipped haccepted] at hexec
    cases hexec
    exact ⟨rfl, List.prefix_append _ _, rfl, rfl, .inl ⟨rfl, rfl⟩⟩

/-! ### The commands that leave the modem alone (41_commands.md R184) -/

theorem exec_prepares {i : Instr} {s t : State} (hi : i.command ≠ .retransmitCustom) (h : exec i s = .next t) :
    ∃ s1, Prepares s s1 ∧ Concludes s1 t := by
  rcases exec_eq i s with ⟨r, d, s1, h', hshape⟩ | ⟨e, h', -⟩ | ⟨hcustom, -⟩
  · refine ⟨s1, ?_, (concludes_of_respond (h'.symm.trans h)).1⟩
    rcases hshape with ⟨-, -, -, rfl⟩ | ⟨-, -, -, rfl⟩ | ⟨-, -, -, rfl⟩ | ⟨-, -, -, rfl⟩ | ⟨f, -, -, rfl⟩
    · exact (Prepares.refl s).selectCmd
    · exact (Prepares.refl s).selectCmd
    · exact .telemetryLogged s
    · exact .packetInfoRead s
    · exact (Prepares.refl s).selectCmd
  · cases h'.symm.trans h
    exact ⟨_, (Prepares.refl s).selectCmd.log, _, _, _, _, _, _, rfl⟩
  · exact absurd hcustom hi

/-- Settles O29: neither the preparation nor the end of such a command writes a modem register or makes a `begin` call. -/
theorem onlyCustomChangesModem : Obligations.OnlyCustomChangesModem := by
  unfold Obligations.OnlyCustomChangesModem
  intro i s t hi hexec
  obtain ⟨s1, ⟨⟨_, _, _, rfl⟩, ⟨es, htrace, hes⟩, -, -⟩, ⟨_, _, _, _, _, _, rfl⟩⟩ := exec_prepares hi hexec
  refine ⟨rfl, rfl, rfl, rfl, fun items r => ?_⟩
  rw [newEvents, htrace, List.drop_left]
  exact hes items r

end Sys2Proof.Machine

namespace Sys2Proof.Machine

/-! ## The link manager (42_link_manager.md R233 to R239) -/

/-- Settles O31: the two items between the shared ones and the oscillator voltage depend on the modem type alone. -/
theorem applyListOrder : Obligations.ApplyListOrder := by
  unfold Obligations.ApplyListOrder
  intro p c
  refine ⟨fun hlora => ?_, fun hfsk => ?_⟩
  · rw [applyItems, hlora]
    rfl
  · rw [applyItems, hfsk]
    rfl

theorem callBegin_of_linkStatus {s : State} {r : LinkStatus} (cfg : ModemConfig) (h : s.env.linkStatus = r) :
    callBegin cfg s = s.call (.begin (applyItems s.par cfg) r) s.env.popLinkStatus := by
  rw [callBegin, h]

/-- Settles O30: one `begin` call with the driver's answer, then CUR_CFG or the fatal entry. -/
theorem setModemFollowsTheDriver : Obligations.SetModemFollowsTheDriver := by
  unfold Obligations.SetModemFollowsTheDriver
  refine fun cfg s => ⟨fun hlink => ?_, fun k hlink => ?_⟩
  · rw [setModem_ok cfg hlink, callBegin_of_linkStatus cfg hlink]
    rfl
  · rw [setModem_err cfg hlink, callBegin_of_linkStatus cfg hlink]
    simp [takeLinkFault, State.call, Call.collaborator]

/-! ### MODEM_REQ (42_link_manager.md R239; 70_reset_and_hazards.md R396) -/

section Request

variable {s : State} {cfg : ModemConfig}

theorem modemRequest_accepted (hfault : s.fault = []) (hphase : s.seqPhase = .idle) (hidle : s.txState = .idle)
    (htable : cfg = s.par.loraDefault ∨ cfg = s.par.fskDefault) : modemRequest cfg s = (setModem cfg s).outcome := by
  simp only [modemRequest, hfault, hphase, hidle, and_self, if_true, if_pos htable]

theorem modemRequest_notIdle (hfault : s.fault = []) (hbusy : ¬(s.seqPhase = .idle ∧ s.txState = .idle)) :
    modemRequest cfg s = .refused .modemReqNotAccepted := by
  simp only [modemRequest, hfault, if_neg hbusy]

theorem modemRequest_notATable (hfault : s.fault = []) (hphase : s.seqPhase = .idle) (hidle : s.txState = .idle)
    (htable : ¬(cfg = s.par.loraDefault ∨ cfg = s.par.fskDefault)) : modemRequest cfg s = .refused .modemReqNotATable := by
  simp only [modemRequest, hfault, hphase, hidle, and_self, if_true, if_neg htable]

end Request

/-- Settles O33: an accepted request is `setModem` and nothing after it, with either answer of the driver. -/
theorem modemRequestOnlySwitches : Obligations.ModemRequestOnlySwitches := by
  unfold Obligations.ModemRequestOnlySwitches
  intro s s0 cfg hturn hfault
  rw [show step s = modemRequest cfg s0 from step_of_portTurn hturn]
  obtain ⟨hok, herr⟩ := setModemFollowsTheDriver cfg s0
  refine ⟨fun hphase hidle htable hlink => ?_, fun k hphase hidle htable hlink => ?_, modemRequest_notIdle hfault,
    fun hphase hidle hlora hfsk => modemRequest_notATable hfault hphase hidle (not_or.mpr ⟨hlora, hfsk⟩)⟩
  · rw [modemRequest_accepted hfault hphase hidle htable, hok hlink]
    rfl
  · rw [modemRequest_accepted hfault hphase hidle htable, herr k hlink]
    rfl

/-! ### The writes of CUR_CFG (42_link_manager.md R234)

A step makes at most one `setModem`. The work before and after it keeps CUR_CFG and only extends TRACE. -/

/-- CUR_CFG is kept, or its new value is the one of a `begin` call that the driver has answered with OK in between, in the state `u`. -/
inductive FollowsDriver (s t : State) : Prop
  | kept (cur : t.curCfg = s.curCfg)
  | switched (u : State) (cfg : ModemConfig) (par : u.par = s.par) (before : s.trace <+: u.trace) (ok : u.env.linkStatus = .ok)
    (after : (callBegin cfg u).trace <+: t.trace) (cur : t.curCfg = .holds cfg)

/-- After its successful call `setModem` writes CUR_CFG alone. -/
theorem quiet_applied (cfg : ModemConfig) (s : State) : Quiet (callBegin cfg s) { callBegin cfg s with curCfg := .holds cfg } :=
  (Quiet.refl _).silent

theorem quiet_restored (cfg : ModemConfig) (s : State) : Quiet (callBegin cfg s) (restored cfg s) := (quiet_applied cfg s).silent

theorem curCfg_pollHeartbeat (now last : Nat) (s : State) : (pollHeartbeat now last s).curCfg = s.curCfg := by
  rw [pollHeartbeat_eq]

theorem curCfg_finish (s : State) : (finish s).state.curCfg = s.curCfg := by
  rcases finish_cases s with ⟨-, h⟩ | ⟨r, -, h⟩ <;> rw [h] <;> rfl

namespace FollowsDriver

variable {s t u : State}

/-- Quiet work that keeps CUR_CFG may come first. -/
theorem after (hq : Quiet s u) (h : FollowsDriver u t) (cur : u.curCfg = s.curCfg := by rfl) : FollowsDriver s t := by
  obtain ⟨hpar, -⟩ := (State.owned_eq_iff _ _).mp hq.kept
  cases h with
  | kept hcur => exact .kept (hcur.trans cur)
  | switched v cfg par before ok after hcur =>
    exact .switched v cfg (par.trans hpar) (hq.traced.trace_grows.trans before) ok after hcur

/-- A successful `begin` call between quiet work. -/
theorem of_begin {cfg : ModemConfig} (hq : Quiet s u) (ok : u.env.linkStatus = .ok)
    (hrest : Quiet (callBegin cfg u) t) (cur : t.curCfg = .holds cfg := by rfl) : FollowsDriver s t := by
  obtain ⟨hpar, -⟩ := (State.owned_eq_iff _ _).mp hq.kept
  exact .switched u cfg hpar hq.traced.trace_grows ok hrest.traced.trace_grows cur

theorem begin_mem_newEvents (h : FollowsDriver s t) (hne : t.curCfg ≠ s.curCfg) :
    ∃ cfg, t.curCfg = .holds cfg ∧ Event.call .radio (.begin (applyItems s.par cfg) .ok) ∈ newEvents s t := by
  cases h with
  | kept cur => exact absurd cur hne
  | switched u cfg par before ok after cur =>
    obtain ⟨es, hes⟩ := before
    obtain ⟨fs, hfs⟩ := after
    refine ⟨cfg, cur, ?_⟩
    rw [newEvents, ← hfs, callBegin_of_linkStatus cfg ok, State.call_trace, ← hes, par, List.append_assoc, List.append_assoc,
      List.drop_left]
    exact List.mem_append_right _ List.mem_cons_self

/-! #### The transmit FSM (43_transmit_fsm.md) -/

theorem prepareStep (s : State) : FollowsDriver s (prepareStep s).state := by
  have hsuspended : Quiet s (suspendReception (callEnable s)) := (Quiet.refl s).call.suspendReception
  rcases prepareStep_cases s with ⟨-, h⟩ | ⟨-, -, h⟩ | ⟨-, -, -, h⟩ | ⟨cur, -, -, -, ⟨hok, h⟩ | ⟨k, -, h⟩⟩ <;> rw [h]
  · exact .kept rfl
  · exact .kept rfl
  · exact .kept rfl
  · exact of_begin hsuspended.saveModem hok (quiet_applied _ _).enterSending
  · exact .kept rfl

theorem startStep (s : State) : FollowsDriver s (startStep s).state := by
  rcases startStep_cases s with ⟨f, -, h⟩ | ⟨buf, -, ⟨-, h⟩ | ⟨-, h⟩⟩ <;> rw [h] <;> exact .kept rfl

theorem pollStep (s : State) : FollowsDriver s (pollStep s).state := by
  rcases pollStep_cases s with ⟨-, h⟩ | ⟨-, -, h⟩ | ⟨last, -, -, ⟨-, h⟩ | ⟨t0, timeout, -, -, ⟨-, h⟩ | ⟨-, h⟩⟩⟩ <;> rw [h]
  · exact .kept rfl
  · exact .kept rfl
  all_goals exact .kept (curCfg_pollHeartbeat _ last (polled s))

theorem exitStep (s : State) : FollowsDriver s (exitStep s).state := by
  have hstandby : Quiet s (s.call .standby s.env) := (Quiet.refl s).call
  rcases exitStep_cases s with ⟨-, h⟩ | ⟨-, -, h⟩ | ⟨-, -, -, h⟩ | ⟨cfg, -, -, -, ⟨hok, h⟩ | ⟨k, -, h⟩⟩ <;> rw [h]
  · exact .kept (curCfg_finish s)
  · exact .kept (curCfg_finish _)
  · exact .kept rfl
  · exact of_begin hstandby hok (quiet_restored _ _).attachLine.finish (curCfg_finish _)
  · exact .kept rfl

theorem transmitStep (s : State) : FollowsDriver s (transmitStep s).state := by
  rcases transmitStep_cases s with ⟨-, h⟩ | ⟨-, -, h⟩ | ⟨-, -, h⟩ | ⟨-, h⟩ | ⟨-, h⟩ <;> rw [h]
  · exact .prepareStep s
  · exact .startStep s
  · exact .pollStep s
  · exact .exitStep s
  · exact .kept rfl

/-! #### The receive service -/

theorem exec {i : Instr} (h : exec i s = .next t) : FollowsDriver s t := by
  by_cases hcommand : i.command = .retransmitCustom
  case neg =>
    obtain ⟨hcur, -⟩ := onlyCustomChangesModem i s t hcommand h
    exact .kept hcur
  rw [exec_of_command hcommand] at h
  by_cases haccepted : customAccepted s.par i.data = true
  case neg =>
    cases (exec_retransmitCustom_skipped haccepted).symm.trans h
    exact .kept rfl
  have happlied := (Flow.outcome_eq_next_iff _ _).mp ((exec_retransmitCustom_accepted haccepted).symm.trans h)
  rcases applyCustom_cases i.data (s.selectCmd .retransmitCustom) with ⟨-, h'⟩ | ⟨cur, -, ⟨k, -, h'⟩ | ⟨hok, h'⟩⟩ <;>
    rw [h'] at happlied
  · cases happlied
    exact .kept rfl
  · cases happlied
    exact .kept rfl
  · obtain ⟨⟨_, _, _, _, _, _, rfl⟩, -⟩ := concludes_of_answer happlied
    exact .switched _ _ rfl List.prefix_rfl hok List.prefix_rfl rfl

theorem rxDecode (h : rxDecode s = .next t) : FollowsDriver s t := by
  rcases rxDecode_next h with ⟨f, rfl⟩ | ⟨cfg, -, ⟨e, rfl⟩ | ⟨f, rfl⟩ | ⟨i, hexec⟩⟩
  · exact .kept rfl
  · exact .kept rfl
  · exact .kept rfl
  · exact .after (Quiet.refl s).call (.exec hexec)

theorem rxPoll (s : State) : FollowsDriver s (rxPoll s) := by
  unfold Machine.rxPoll
  split <;> exact .kept rfl

theorem rxPost (s : State) : FollowsDriver s (rxPost s).state := by
  rcases rxPost_cases s with ⟨h, -⟩ | ⟨c, r, -, -, ⟨-, h⟩ | ⟨-, -, -, ⟨-, h⟩ | ⟨cfg, -, ⟨hok, h⟩ | ⟨k, -, h⟩⟩⟩⟩ <;> rw [h]
  · exact .kept rfl
  · exact .kept (logResult_curCfg r s)
  · exact .kept rfl
  · exact of_begin (.refl s) hok (quiet_restored cfg s).logResult.silent (logResult_curCfg r _)
  · exact .kept rfl

theorem rxEnd (s : State) : FollowsDriver s (rxEnd s).state := by
  rcases rxEnd_cases s with ⟨-, h⟩ | ⟨b, -, h⟩ <;> rw [h] <;> exact .kept rfl

/-! #### The turns -/

theorem bootStep (h : bootStep s = .next t) : FollowsDriver s t := by
  obtain ⟨-, ⟨hok, rfl⟩ | ⟨k, -, rfl⟩⟩ := bootStep_next h
  · exact .switched (loadCallsign s) _ rfl (List.prefix_append _ _) hok (List.prefix_append _ _) rfl
  · exact .kept rfl

theorem phaseStep (h : phaseStep s = .next t) : FollowsDriver s t := by
  rcases phaseStep_next h with ⟨-, h⟩ | ⟨-, rfl⟩ | ⟨-, rfl⟩ | ⟨-, h⟩ | ⟨-, rfl⟩ | ⟨-, rfl⟩ | ⟨-, rfl⟩ | ⟨-, rfl⟩
  · exact .bootStep h
  · exact .rxPoll s
  · exact .kept rfl
  · exact .rxDecode h
  · exact .transmitStep s
  · exact .rxPost s
  · exact .rxEnd s
  · exact .kept rfl

theorem portStep {e : PortEvent} (h : portStep e s = .next t) (hreset : e ≠ .reset) : FollowsDriver s t := by
  rcases portStep_next h with ⟨bytes, -, -, rfl⟩ | ⟨-, rfl⟩ | ⟨bytes, ov, -, h⟩ | ⟨cfg, -, h⟩ | ⟨b, -, -, rfl⟩ | ⟨-, rfl⟩ | ⟨rfl, -⟩
  · exact .kept (by rw [receiveReady_eq])
  · exact .kept rfl
  · obtain ⟨-, -, -, ⟨-, rfl⟩ | ⟨-, rfl⟩⟩ := txRequest_next h <;> exact .kept rfl
  · obtain ⟨-, -, -, -, ⟨hok, rfl⟩ | ⟨k, -, rfl⟩⟩ := modemRequest_next h
    · exact of_begin (.refl s) hok (quiet_applied _ _)
    · exact .kept rfl
  · exact .kept rfl
  · exact .kept rfl
  · exact absurd rfl hreset

theorem step (h : step s = .next t) (hreset : (nextTurn s).1 ≠ .port .reset) : FollowsDriver s t := by
  have hturn : Quiet s (nextTurn s).2 := by rw [nextTurn_eq]; exact (Quiet.refl s).silent
  refine .after hturn ?_ (by rw [nextTurn_eq])
  rcases step_next_cases h with ⟨e, hport, h⟩ | ⟨-, -, h⟩
  · exact .portStep h fun he => hreset (by rw [hport, he])
  · exact .phaseStep h

end FollowsDriver

/-- Settles O32: the only value a step other than RESET gives CUR_CFG is that of its own successful `begin` call. -/
theorem curCfgOnlyBySetModem : Obligations.CurCfgOnlyBySetModem := by
  unfold Obligations.CurCfgOnlyBySetModem
  intro s t h hne
  by_cases hreset : (nextTurn s).1 = .port .reset
  · exact .inl hreset
  · exact .inr ((FollowsDriver.step h hreset).begin_mem_newEvents hne)

end Sys2Proof.Machine

namespace Sys2Proof.Machine

/-! ## The invariant, operation by operation (60_exceptions.md R322)

Each operation of a step keeps the invariant where its own side conditions hold, so the invariant of a step is composed from these. -/

namespace Invariant

variable {s t : State}

/-- The invariant reads no flag of reception, no TRACE, and of ENV the time alone. -/
theorem of_unread (h : Invariant s) (now : s.env.now ≤ t.env.now := by exact Nat.le_refl _)
    (frame : t = { s with
      env := t.env, trace := t.trace, dataRx := t.dataRx, switchModem := t.switchModem, rxLineEn := t.rxLineEn
      txOverride := t.txOverride, txExitNeeded := t.txExitNeeded } := by rfl) : Invariant t := by
  have past {r : Reg Nat} : r.isPast s.env.now → r.isPast t.env.now := fun ⟨x, hx, hle⟩ => ⟨x, hx, hle.trans now⟩
  rw [frame]
  exact { h with started := fun hx hs => (h.started hx hs).imp past past }

theorem modemSet (h : Invariant s) (cfg : ModemConfig) : Invariant { callBegin cfg s with curCfg := .holds cfg } :=
  { h.of_unread (t := callBegin cfg s) with booted := fun hb => ⟨(h.booted hb).1, rfl⟩ }

theorem modemSaved (h : Invariant s) (cur : ModemConfig) :
    Invariant { s with restoreCfg := .holds cur, restorePending := true } :=
  { h with restorable := fun _ => rfl }

theorem overridden (h : Invariant s) (cfg cur : ModemConfig) : Invariant (overridden cfg cur s) :=
  (h.modemSaved cur).modemSet cfg

theorem restored (h : Invariant s) (cfg : ModemConfig) : Invariant (restored cfg s) :=
  { h.modemSet cfg with restorable := nofun }

theorem stored (h : Invariant s) {bytes : List Byte} (hfit : bytes.length ≤ Config.frameMax) : Invariant (stored bytes s) :=
  have ⟨hrx, htx, hid⟩ := h.canonical
  { h with
    canonical := ⟨hrx, Memory.wf_write _ _ htx, hid⟩
    toSend := ⟨hfit, by rw [Machine.stored, Memory.read_write_same]; rfl⟩ }

theorem takeLinkFault (h : Invariant s) (k : LinkErr) : Invariant (takeLinkFault k s) :=
  { h with
    booted := nofun, fsm := by simp [SeqPhase.isTransmitting], halted := by simp, timeout := nofun, started := nofun
    settled := nofun, bracket := nofun, command := nofun, result := nofun }

/-- A step of SEQ outside a transmission: FSM idle before and after, with what the new phase asks for. -/
theorem enterPhase (h : Invariant s) (p : SeqPhase) (hidle : s.txState = .idle) (hp : p.isTransmitting = false)
    (booted : p.isBooted = true → s.idLen.isWritten = true ∧ s.curCfg.isWritten = true)
    (bracket : p.isBracketed = true → s.intEn = false ∧ s.intSave.isWritten = true)
    (post : p = .rxPost → s.rxCmd.isWritten = true ∧ s.txResult.isWritten = true) : Invariant { s with seqPhase := p } :=
  { h with
    booted
    bracket
    fsm := by simp [hidle, hp]
    halted := by cases p <;> simp_all [SeqPhase.isTransmitting]
    command := by rintro (rfl | hpost); exacts [absurd hp (by decide), (post hpost).1]
    result := fun hpost => (post hpost).2 }

theorem requested (h : Invariant s) (hphase : s.seqPhase = .rxDecode) (hcmd : s.rxCmd.isWritten = true) (ov : Bool) :
    Invariant (requested ov s) :=
  { h with
    booted := fun _ => h.booted (by rw [hphase]; rfl)
    bracket := fun _ => h.bracket (by rw [hphase]; rfl)
    fsm := by simp [Machine.requested, SeqPhase.isTransmitting], halted := by simp [Machine.requested]
    timeout := nofun, started := nofun, settled := nofun, command := fun _ => hcmd, result := nofun }

theorem externalRequested (h : Invariant s) (hphase : s.seqPhase = .idle) {bytes : List Byte} (hfit : bytes.length ≤ Config.frameMax)
    (ov : Bool) : Invariant (externalRequested bytes ov s) :=
  { h.stored hfit with
    booted := fun _ => h.booted (by rw [hphase]; rfl)
    fsm := by simp [Machine.externalRequested, SeqPhase.isTransmitting], halted := by simp [Machine.externalRequested]
    timeout := nofun, started := nofun, settled := nofun, bracket := nofun, command := nofun, result := nofun }

/-! ### The transmit FSM -/

/-- Going to another state of a transmission under way, with what that state asks for. -/
theorem enterTxState (h : Invariant s) {x : TxState} (hphase : s.seqPhase = .rxTx ∨ s.seqPhase = .extTx) (hidle : x ≠ .idle)
    (hhalted : x ≠ .halted) (timeout : x = .sending → s.txTimeout.isWritten = true)
    (started : x = .sending → s.txStarted = true → s.txT0.isPast s.env.now ∧ s.txLastBeat.isPast s.env.now)
    (settled : x.isExiting = true → s.txPendingResult.isWritten = true) : Invariant { s with txState := x } :=
  { h with
    timeout
    started
    settled
    fsm := by rcases hphase with hp | hp <;> simp [hp, hidle, SeqPhase.isTransmitting]
    halted := by rcases hphase with hp | hp <;> simp [hp, hhalted] }

theorem settleTransmit (h : Invariant s) (hphase : s.seqPhase = .rxTx ∨ s.seqPhase = .extTx) (r : TxResult) {x : TxState}
    (hx : x.isExiting = true) : Invariant (settleTransmit r x s) :=
  enterTxState (s := { s with txPendingResult := .holds r }) { h with settled := fun _ => rfl } hphase
    (by rintro rfl; cases hx) (by rintro rfl; cases hx) (by rintro rfl; cases hx) (by rintro rfl; cases hx) fun _ => rfl

theorem enterSending (h : Invariant s) (hphase : s.seqPhase = .rxTx ∨ s.seqPhase = .extTx) : Invariant (enterSending s) :=
  enterTxState
    (s := { s.call (.getTimeOnAir s.txLen s.env.timeOnAir) s.env.popTimeOnAir with
      txTimeout := .holds (timeoutOf s.env.timeOnAir), txStarted := false })
    { h.of_unread (t := s.call (.getTimeOnAir s.txLen s.env.timeOnAir) s.env.popTimeOnAir) with
      timeout := fun _ => rfl, started := nofun } hphase nofun nofun (fun _ => rfl) nofun nofun

theorem markStarted (h : Invariant s) : Invariant (markStarted s) :=
  { h.of_unread (t := s.withEnv s.env.popNow) s.env.now_le_readNow with
    started := fun _ _ => ⟨⟨_, rfl, Nat.le_refl _⟩, _, rfl, Nat.le_refl _⟩ }

theorem polled (h : Invariant s) : Invariant (polled s) :=
  h.of_unread s.env.popTxDone.now_le_readNow

theorem pollHeartbeat (h : Invariant s) {t last : Nat} (ht : t ≤ s.env.now) : Invariant (pollHeartbeat t last s) := by
  unfold Machine.pollHeartbeat
  split
  · exact { h.of_unread (t := s.call .heartbeat s.env) with
      started := fun hx hs => ⟨(h.started hx hs).1, _, rfl, ht⟩ }
  · exact h

theorem attachLine (h : Invariant s) : Invariant (attachLine s) := h.of_unread

/-- The end of a transmission leaves what its caller's next phase reads (43_transmit_fsm.md R290). -/
theorem finished (h : Invariant s) (hphase : s.seqPhase = .rxTx ∨ s.seqPhase = .extTx) (r : TxResult) : Invariant (finished r s) := by
  have hbooted := h.booted (by rcases hphase with hp | hp <;> rw [hp] <;> rfl)
  have hidle : Invariant { s with txResult := .holds r, txState := .idle, seqPhase := .idle } :=
    { h with
      booted := fun _ => hbooted, fsm := by simp [SeqPhase.isTransmitting], halted := by simp
      timeout := nofun, started := nofun, settled := nofun, bracket := nofun, command := nofun, result := nofun }
  unfold Machine.finished
  rcases hphase with hp | hp <;> rw [hp]
  · exact hidle.enterPhase .rxPost rfl rfl (fun _ => hbooted) (fun _ => h.bracket (by rw [hp]; rfl)) fun _ => ⟨h.command (.inl hp), rfl⟩
  · exact hidle

/-! ### Boot, acknowledgement and delivery -/

theorem loadCallsign (h : Invariant s) (hkept : callsignKept s.env = true) : Invariant (loadCallsign s) := by
  obtain ⟨hmin, hmax, hlen⟩ := callsign_bounds hkept
  obtain ⟨hrx, htx, -⟩ := h.canonical
  refine { h.of_unread (t := s.call (.getCallsign s.env.callsign.1 s.env.callsign.2) s.env.popCallsign) with
    canonical := ⟨hrx, htx, Memory.wf_ofBytes _ _⟩
    booted := fun hb => ⟨rfl, (h.booted hb).2⟩
    identifier := ?_ }
  rintro n hn
  cases hn
  have hread := Memory.read_write_same (s.env.callsign.1.take s.env.callsign.2) [] 0
  rw [List.length_take_of_le hlen] at hread
  exact ⟨hmin, hmax, Option.isSome_iff_exists.mpr ⟨_, hread⟩⟩

theorem delivered (h : Invariant s) {bytes : List Byte} (hfit : bytes.length ≤ Config.frameMax) : Invariant (delivered bytes s) := by
  have hreceived : Invariant { s with rxBuf := Memory.write [] 0 bytes, rxLen := bytes.length } :=
    { h with
      canonical := ⟨Memory.wf_ofBytes _ _, h.canonical.2⟩
      received := ⟨hfit, by rw [Memory.read_write_same]; rfl⟩ }
  rw [Machine.delivered, receiveReady_eq]
  exact hreceived.of_unread

end Invariant
end Sys2Proof.Machine

namespace Sys2Proof

/-- The payloads a well-formed binding may send are within the bound (93_implementation_defined.md section 2). -/
theorem Params.wf_payloads {p : Params} (h : p.wf = true) : p.nSysInfo ≤ Config.optMax ∧ p.handler.payloadsFit = true := by
  simp only [Params.wf, Bool.and_eq_true, decide_eq_true_eq, and_assoc] at h
  obtain ⟨-, -, -, -, -, -, -, hsysinfo, hpayloads⟩ := h
  exact ⟨hsysinfo, hpayloads⟩

end Sys2Proof

namespace Sys2Proof.Machine

/-! ## What a step can do from a state of the invariant

The fault branches of the model's steps cannot happen there. The two relations name the other branches, each with the guards that the
statements below rest on. -/

/-- What a step of the transmit FSM can do from a state of the invariant, the fatal entry apart (43_transmit_fsm.md R265 to R290). -/
inductive FsmStep (s : State) : State → Prop
  | refuse : s.txState = .preparing → FsmStep s (refuseDisabled (callEnable s))
  | keepModem : s.txState = .preparing → FsmStep s (enterSending (suspendReception (callEnable s)))
  | switchModem (cur : ModemConfig) : s.txState = .preparing →
    FsmStep s (enterSending (overridden s.par.loraDefault cur (suspendReception (callEnable s))))
  | start (buf : List Byte) : s.txState = .sending → s.txStarted = false → FsmStep s (markStarted (callStart buf s))
  | startError (buf : List Byte) (e : Int) : s.txState = .sending → s.txStarted = false →
    FsmStep s (settleTransmit (.startError e) .rejected (callStart buf s))
  | complete : s.txState = .sending → s.txStarted = true → FsmStep s (settleTransmit .ok .done (s.withEnv s.env.popTxDone))
  | timeOut (last : Nat) : s.txState = .sending → s.txStarted = true →
    FsmStep s (settleTransmit .txTimeout .timedOut (pollHeartbeat s.env.popTxDone.readNow last (polled s)))
  | wait (last t0 timeout : Nat) : s.txState = .sending → s.txStarted = true → s.txT0 = .holds t0 → s.txTimeout = .holds timeout →
    s.env.popTxDone.readNow ≤ t0 + timeout → FsmStep s (pollHeartbeat s.env.popTxDone.readNow last (polled s))
  | leave (r : TxResult) : s.txState.isExiting = true → s.txPendingResult = .holds r → s.txExitNeeded = false →
    FsmStep s (finished r s)
  | reattach (r : TxResult) : s.txState.isExiting = true → s.restorePending = false →
    FsmStep s (finished r (attachLine (s.call .standby s.env)))
  | restore (r : TxResult) (cfg : ModemConfig) : s.txState.isExiting = true →
    FsmStep s (finished r (attachLine (restored cfg (s.call .standby s.env))))

/-- What a step can do from a state of the invariant, by its turn (10_state.md R44, R61, R64). -/
inductive SoundStep (s : State) : Turn → State → Prop
  | delivery (bytes : List Byte) : bytes.length ≤ Config.frameMax → SoundStep s (.port (.rxDeliver bytes)) (delivered bytes s)
  | timer : SoundStep s (.port .tmrEvent) (isrTmr s)
  | request (bytes : List Byte) (ov : Bool) : s.seqPhase = .idle → bytes.length ≤ Config.frameMax →
    SoundStep s (.port (.txReq bytes ov)) (externalRequested bytes ov s)
  | modemSwitch (cfg : ModemConfig) : s.seqPhase = .idle → SoundStep s (.port (.modemReq cfg)) { callBegin cfg s with curCfg := .holds cfg }
  | setIntEn (b : Bool) : inBracket s = false → SoundStep s (.port (.setIntEn b)) { s with intEn := b }
  | clear : SoundStep s (.port .clearSwitchModem) { s with switchModem := false }
  | reset : SoundStep s (.port .reset) (resetBlock s)
  /-- The fatal entry, from a state `u` that the step has reached (60_exceptions.md R340). -/
  | halt (τ : Turn) (k : LinkErr) (u : State) : Invariant u → s.env.now ≤ u.env.now → s.txState ≠ .sending →
    SoundStep s τ (takeLinkFault k u)
  | boot : s.seqPhase = .boot → callsignKept s.env = true → SoundStep s .seq (booted s)
  | rest : (s.seqPhase = .idle ∨ s.seqPhase = .halted) → SoundStep s .seq s
  | accept : s.seqPhase = .idle → SoundStep s .seq { s with seqPhase := .rxAck }
  | acknowledge : s.seqPhase = .rxAck → SoundStep s .seq (rxAck s)
  /-- RxDecode that ends in silence: a decode error, or a command that sends nothing. -/
  | silence (c : Reg Command) (tr : List Event) : s.seqPhase = .rxDecode →
    SoundStep s .seq { s with rxCmd := c, trace := tr, seqPhase := .rxEnd }
  /-- RxDecode that answers without an override. -/
  | answer (c : Command) (tr : List Event) (e : Env) (bytes : List Byte) : s.seqPhase = .rxDecode → e.now = s.env.now →
    bytes.length ≤ Config.frameMax →
    SoundStep s .seq (requested false (stored bytes { s with rxCmd := .holds c, trace := tr, env := e }))
  /-- RxDecode that answers with the override in force. -/
  | override (cfg cur : ModemConfig) (tr : List Event) (bytes : List Byte) : s.seqPhase = .rxDecode →
    bytes.length ≤ Config.frameMax →
    SoundStep s .seq (requested true (stored bytes (overridden cfg cur { s with rxCmd := .holds .retransmitCustom, trace := tr })))
  | transmit {t : State} : (s.seqPhase = .rxTx ∨ s.seqPhase = .extTx) → FsmStep s t → SoundStep s .seq t
  | post (r : TxResult) : s.seqPhase = .rxPost →
    ¬(s.rxCmd = .holds .retransmitCustom ∧ s.txResult = .holds .txDisabled ∧ s.restorePending = true) →
    SoundStep s .seq (posted r s)
  | postRestore (r : TxResult) (cfg : ModemConfig) : s.seqPhase = .rxPost → SoundStep s .seq (posted r (restored cfg s))
  | finish (b : Bool) : s.seqPhase = .rxEnd → SoundStep s .seq { s with intEn := b, seqPhase := .idle }

/-! ### The port moves -/

theorem portStep_sound {e : PortEvent} {s t : State} (hs : Invariant s) (h : portStep e s = .next t) : SoundStep s (.port e) t := by
  rcases portStep_next h with ⟨bytes, rfl, hfit, rfl⟩ | ⟨rfl, rfl⟩ | ⟨bytes, ov, rfl, h⟩ | ⟨cfg, rfl, h⟩ | ⟨b, rfl, hb, rfl⟩
      | ⟨rfl, rfl⟩ | ⟨rfl, rfl⟩
  · exact .delivery bytes hfit
  · exact .timer
  · obtain ⟨-, hphase, hfit, ⟨-, rfl⟩ | ⟨hbusy, -⟩⟩ := txRequest_next h
    · exact .request bytes ov hphase hfit
    · exact absurd (hs.idle (by rw [hphase]; rfl)) hbusy
  · obtain ⟨-, hphase, hidle, -, ⟨-, rfl⟩ | ⟨k, -, rfl⟩⟩ := modemRequest_next h
    · exact .modemSwitch cfg hphase
    · exact .halt _ k _ hs.of_unread (Nat.le_refl _) (by simp [hidle])
  · exact .setIntEn b hb
  · exact .clear
  · exact .reset

/-! ### The transmit FSM -/

theorem prepareStep_sound {s : State} (hs : Invariant s) (hphase : s.seqPhase = .rxTx ∨ s.seqPhase = .extTx)
    (hx : s.txState = .preparing) : SoundStep s .seq (prepareStep s).state := by
  have hbooted := hs.booted (by rcases hphase with hp | hp <;> rw [hp] <;> rfl)
  rcases prepareStep_cases s with ⟨-, h⟩ | ⟨-, -, h⟩ | ⟨-, -, hcur, -⟩ | ⟨cur, -, -, -, ⟨-, h⟩ | ⟨k, -, h⟩⟩
  · rw [h]; exact .transmit hphase (.refuse hx)
  · rw [h]; exact .transmit hphase (.keepModem hx)
  · exact absurd hbooted.2 (Bool.eq_false_iff.mp hcur)
  · rw [h]; exact .transmit hphase (.switchModem cur hx)
  · rw [h]
    refine .halt _ k _ ?_ (Nat.le_refl _) (by simp [hx])
    exact (hs.of_unread.modemSaved cur).of_unread

theorem startStep_sound {s : State} (hs : Invariant s) (hphase : s.seqPhase = .rxTx ∨ s.seqPhase = .extTx)
    (hx : s.txState = .sending) (hstarted : s.txStarted = false) : SoundStep s .seq (startStep s).state := by
  rcases startStep_cases s with ⟨f, hread, -⟩ | ⟨buf, -, ⟨-, h⟩ | ⟨-, h⟩⟩
  · obtain ⟨bytes, hbytes⟩ := Option.isSome_iff_exists.mp hs.toSend.2
    cases hread.symm.trans ((readTransmit_ok_iff s bytes).mpr hbytes)
  · rw [h]; exact .transmit hphase (.start buf hx hstarted)
  · rw [h]; exact .transmit hphase (.startError buf _ hx hstarted)

theorem pollStep_sound {s : State} (hs : Invariant s) (hphase : s.seqPhase = .rxTx ∨ s.seqPhase = .extTx)
    (hx : s.txState = .sending) (hstarted : s.txStarted = true) : SoundStep s .seq (pollStep s).state := by
  obtain ⟨⟨t0, ht0, -⟩, ⟨beat, hbeat, -⟩⟩ := hs.started hx hstarted
  have htimeout := hs.timeout hx
  rcases pollStep_cases s with ⟨-, h⟩ | ⟨-, hunwritten, -⟩ | ⟨last, -, -, ⟨hunwritten, -⟩ | ⟨t0, timeout, ht0, htimeout, ⟨-, h⟩ | ⟨hle, h⟩⟩⟩
  · rw [h]; exact .transmit hphase (.complete hx hstarted)
  · simp [hbeat] at hunwritten
  · simp [ht0, htimeout] at hunwritten
  · rw [h]; exact .transmit hphase (.timeOut last hx hstarted)
  · rw [h]; exact .transmit hphase (.wait last t0 timeout hx hstarted ht0 htimeout (Nat.not_lt.mp hle))

theorem finish_of_written {s : State} {r : TxResult} (h : s.txPendingResult = .holds r) : finish s = .run (finished r s) := by
  rw [finish, h, Reg.use_holds]

theorem exitStep_sound {s : State} (hs : Invariant s) (hphase : s.seqPhase = .rxTx ∨ s.seqPhase = .extTx)
    (hx : s.txState.isExiting = true) : SoundStep s .seq (exitStep s).state := by
  obtain ⟨r, hr⟩ := (Reg.isWritten_iff _).mp (hs.settled hx)
  rcases exitStep_cases s with ⟨hdue, h⟩ | ⟨-, hpending, h⟩ | ⟨-, hpending, hunwritten, -⟩ | ⟨cfg, -, -, -, ⟨-, h⟩ | ⟨k, -, h⟩⟩
  · rw [h, finish_of_written hr]; exact .transmit hphase (.leave r hx hr hdue)
  · rw [h, finish_of_written (s := attachLine (s.call .standby s.env)) hr]; exact .transmit hphase (.reattach r hx hpending)
  · simp [hs.restorable hpending] at hunwritten
  · rw [h, finish_of_written (s := attachLine (restored cfg (s.call .standby s.env))) hr]; exact .transmit hphase (.restore r cfg hx)
  · rw [h]
    exact .halt _ k _ hs.of_unread (Nat.le_refl _) (fun hx' => by rw [hx'] at hx; cases hx)

theorem transmitStep_sound {s : State} (hs : Invariant s) (hphase : s.seqPhase = .rxTx ∨ s.seqPhase = .extTx) :
    SoundStep s .seq (transmitStep s).state := by
  have hbusy : s.seqPhase.isTransmitting = true ∧ s.seqPhase ≠ .halted := by
    rcases hphase with hp | hp <;> simp [hp, SeqPhase.isTransmitting]
  rcases transmitStep_cases s with ⟨hx, h⟩ | ⟨hx, hstarted, h⟩ | ⟨hx, hstarted, h⟩ | ⟨hx, h⟩ | ⟨hx | hx, -⟩
  · rw [h]; exact prepareStep_sound hs hphase hx
  · rw [h]; exact startStep_sound hs hphase hx hstarted
  · rw [h]; exact pollStep_sound hs hphase hx hstarted
  · rw [h]; exact exitStep_sound hs hphase hx
  · exact absurd hx (hs.fsm.mpr hbusy.1)
  · exact absurd (hs.halted.mp hx) hbusy.2

/-! ### The receive service -/

/-- An accepted override echoes a payload within the bound (30_encoding.md R107). -/
theorem echoOf_fits {p : Params} {d : List Byte} (h : customAccepted p d = true) : (echoOf d).length ≤ Config.optMax := by
  obtain ⟨-, hmax, -⟩ := (customAccepted_iff _ _).mp h
  rw [echoOf, List.length_drop, Config.optMax]
  omega

/-- What an instruction whose data fit does in RxDecode (41_commands.md R180): it is silent, answers, answers with an override, or takes the
LinkFault. -/
theorem exec_sound {s t : State} {i : Instr} (hs : Invariant s) (hphase : s.seqPhase = .rxDecode) (hdata : i.data.length ≤ Config.optMax)
    (m : ModemType) (h : exec i (countFrame m true s) = .next t) : SoundStep s .seq t := by
  have hidle := hs.idle (by rw [hphase]; rfl)
  have hphase' : s.seqPhase.isBooted = true := by rw [hphase]; rfl
  have hbooted := hs.booted hphase'
  obtain ⟨id, hid⟩ := hs.idReady hphase'
  obtain ⟨hsysinfo, hpayloads⟩ := Params.wf_payloads hs.params
  have hanswer {c : Command} {tr : List Event} {e : Env} (r : Byte) {d : List Byte} (he : e.now = s.env.now)
      (hd : d.length ≤ Config.optMax) : SoundStep s .seq (respond r d { s with rxCmd := .holds c, trace := tr, env := e }).state := by
    rw [respond_run (s := { s with rxCmd := .holds c, trace := tr, env := e }) r hid.1 hid.2 hd hidle]
    exact .answer c tr e _ hphase he (frame_fits hid.2 hd)
  rcases exec_eq i (countFrame m true s) with ⟨r, d, s1, h', hshape⟩ | ⟨e, h', -⟩ | ⟨hcommand, haccepted, h'⟩
  · cases h'.symm.trans h
    rcases hshape with ⟨-, -, rfl, rfl⟩ | ⟨-, -, rfl, rfl⟩ | ⟨-, -, rfl, rfl⟩ | ⟨-, -, rfl, rfl⟩ | ⟨f, -, hpayload, rfl⟩
    · exact hanswer r rfl (Nat.zero_le _)
    · exact hanswer r rfl hdata
    · obtain ⟨-, -, -, -, hlength⟩ := telemetry_frame ((countFrame m true s).selectCmd .transmitSystemInfo)
      rw [telemetryLogged_eq]
      exact hanswer r (Prepares.telemetryLogged (countFrame m true s)).now (hlength.trans hsysinfo)
    · obtain ⟨-, -, hlength⟩ := packetInfo_frame ((countFrame m true s).selectCmd .getLastPacketInfo)
      exact hanswer r (Prepares.packetInfoRead (countFrame m true s)).now (hlength.trans_le (by decide))
    · exact hanswer r rfl (handlerAnswer_fits hpayloads hpayload)
  · cases h'.symm.trans h
    exact .silence _ _ hphase
  · rcases applyCustom_cases i.data ((countFrame m true s).selectCmd .retransmitCustom) with ⟨hunwritten, -⟩
        | ⟨cur, hcur, ⟨k, -, happly⟩ | ⟨hok, -⟩⟩
    · exact absurd hbooted.2 (Bool.eq_false_iff.mp hunwritten)
    · rw [happly] at h'
      cases h'.symm.trans h
      have hselected : Invariant { s with rxCmd := .holds .retransmitCustom } := { hs with command := fun _ => rfl }
      exact .halt _ k _ (hselected.modemSaved cur).of_unread (Nat.le_refl _) (by simp [hidle])
    · rw [exec_of_command hcommand] at h
      cases (exec_retransmitCustom_ok (id := id) haccepted hid hidle hcur hok).symm.trans h
      exact .override _ cur _ _ hphase (frame_fits hid.2 (echoOf_fits haccepted))

theorem rxDecode_sound {s t : State} (hs : Invariant s) (hphase : s.seqPhase = .rxDecode) (h : rxDecode s = .next t) :
    SoundStep s .seq t := by
  have hbooted : s.seqPhase.isBooted = true := by rw [hphase]; rfl
  obtain ⟨id, hid, -⟩ := hs.idReady hbooted
  obtain ⟨rx, hrx⟩ := Option.isSome_iff_exists.mp hs.received.2
  obtain ⟨cfg, hcfg⟩ := (Reg.isWritten_iff _).mp (hs.booted hbooted).2
  rw [rxDecode_of_reads hid ((readReceived_ok_iff s rx).mpr hrx) hcfg] at h
  split at h
  · cases h
    exact .silence _ _ hphase
  · next i hdecode => exact exec_sound hs hphase (decode_dataFits hdecode) _ h

theorem rxPost_sound {s : State} (hs : Invariant s) (hphase : s.seqPhase = .rxPost) : SoundStep s .seq (rxPost s).state := by
  have hcmd := hs.command (.inr hphase)
  have hresult := hs.result hphase
  have hidle := hs.idle (by rw [hphase]; rfl)
  rcases rxPost_cases s with ⟨-, hunwritten⟩ | ⟨c, r, hc, hr, ⟨hkeep, h⟩ | ⟨-, -, hpending, ⟨hunwritten, -⟩ | ⟨cfg, -, ⟨-, h⟩ | ⟨k, -, h⟩⟩⟩⟩
  · simp [hcmd, hresult] at hunwritten
  · rw [h]
    refine .post r hphase fun ⟨hcustom, hdisabled, hpending⟩ => hkeep ⟨?_, ?_, hpending⟩
    · exact Reg.holds.inj (hc.symm.trans hcustom)
    · exact Reg.holds.inj (hr.symm.trans hdisabled)
  · simp [hs.restorable hpending] at hunwritten
  · rw [h]; exact .postRestore r cfg hphase
  · rw [h]; exact .halt _ k _ hs.of_unread (Nat.le_refl _) (by simp [hidle])

theorem rxEnd_sound {s : State} (hs : Invariant s) (hphase : s.seqPhase = .rxEnd) : SoundStep s .seq (rxEnd s).state := by
  rcases rxEnd_cases s with ⟨hunwritten, -⟩ | ⟨b, -, h⟩
  · simp [(hs.bracket (by rw [hphase]; rfl)).2] at hunwritten
  · rw [h]; exact .finish b hphase

/-! ### The turns -/

theorem phaseStep_sound {s t : State} (hs : Invariant s) (h : phaseStep s = .next t) : SoundStep s .seq t := by
  rcases phaseStep_next h with ⟨hphase, h⟩ | ⟨hphase, rfl⟩ | ⟨hphase, rfl⟩ | ⟨hphase, h⟩ | ⟨hphase, rfl⟩ | ⟨hphase, rfl⟩
      | ⟨hphase, rfl⟩ | ⟨hphase, rfl⟩
  · have hidle := hs.idle (by rw [hphase]; rfl)
    obtain ⟨hkept, ⟨-, rfl⟩ | ⟨k, -, rfl⟩⟩ := bootStep_next h
    · exact .boot hphase hkept
    · exact .halt _ k _ (hs.loadCallsign hkept).of_unread (Nat.le_refl _) (by simp [hidle])
  · unfold rxPoll
    split
    · exact .accept hphase
    · exact .rest (.inl hphase)
  · exact .acknowledge hphase
  · exact rxDecode_sound hs hphase h
  · exact transmitStep_sound hs hphase
  · exact rxPost_sound hs hphase
  · exact rxEnd_sound hs hphase
  · exact .rest (.inr hphase)

theorem Invariant.nextTurn {s : State} (hs : Invariant s) : Invariant (nextTurn s).2 := by
  rw [nextTurn_eq]
  exact hs.of_unread

/-- Every step from a state of the invariant is one of those of `SoundStep`. -/
theorem step_sound {s t : State} (hs : Invariant s) (h : step s = .next t) : SoundStep (nextTurn s).2 (nextTurn s).1 t := by
  rcases step_next_cases h with ⟨e, hturn, h⟩ | ⟨hturn, -, h⟩ <;> rw [hturn]
  · exact portStep_sound hs.nextTurn h
  · exact phaseStep_sound hs.nextTurn h

end Sys2Proof.Machine

namespace Sys2Proof.Machine

/-! ## What every step keeps -/

theorem invariant_resetBlock {s : State} (hs : Invariant s) : Invariant (resetBlock s) :=
  { invariant_reset with params := hs.params, started := nofun }

namespace Invariant

variable {s : State}

theorem setIntEn (hs : Invariant s) (hfree : s.seqPhase.isBracketed = false) (b : Bool) : Invariant { s with intEn := b } :=
  { hs with bracket := fun hp => absurd hp (by simp [hfree]) }

theorem selectCmd (hs : Invariant s) (c : Command) : Invariant (s.selectCmd c) := { hs with command := fun _ => rfl }

theorem logResult (hs : Invariant s) (r : TxResult) : Invariant (logResult r s) := by
  rw [logResult_eq]
  exact hs.of_unread

theorem enterRxEnd (hs : Invariant s) (hidle : s.seqPhase.isTransmitting = false) (hheld : s.seqPhase.isBracketed = true) :
    Invariant { s with seqPhase := .rxEnd } :=
  have hbooted : s.seqPhase.isBooted = true := by cases hp : s.seqPhase <;> simp_all [SeqPhase.isBracketed, SeqPhase.isBooted]
  hs.enterPhase .rxEnd (hs.idle hidle) rfl (fun _ => hs.booted hbooted) (fun _ => hs.bracket hheld) nofun

theorem posted (hs : Invariant s) (hphase : s.seqPhase = .rxPost) (r : TxResult) : Invariant (posted r s) := by
  refine (hs.logResult r).enterRxEnd ?_ ?_ <;> rw [logResult_eq] <;> simp only [hphase] <;> rfl

end Invariant

theorem fsmStep_keeps_invariant {s t : State} (hs : Invariant s) (hphase : s.seqPhase = .rxTx ∨ s.seqPhase = .extTx)
    (h : FsmStep s t) : Invariant t := by
  cases h with
  | refuse => exact (hs.of_unread (t := callEnable s)).settleTransmit hphase .txDisabled rfl |>.of_unread
  | keepModem => exact (hs.of_unread (t := suspendReception (callEnable s))).enterSending hphase
  | switchModem cur =>
    have hsuspended : Invariant (suspendReception (callEnable s)) := hs.of_unread
    exact (hsuspended.overridden _ cur).enterSending hphase
  | start buf => exact (hs.of_unread (t := callStart buf s)).markStarted
  | startError buf e => exact (hs.of_unread (t := callStart buf s)).settleTransmit hphase _ rfl
  | complete => exact (hs.of_unread (t := s.withEnv s.env.popTxDone)).settleTransmit hphase _ rfl
  | timeOut last =>
    refine (hs.polled.pollHeartbeat (Nat.le_refl _)).settleTransmit ?_ _ rfl
    rw [pollHeartbeat_eq]
    exact hphase
  | wait last => exact hs.polled.pollHeartbeat (Nat.le_refl _)
  | leave r => exact hs.finished hphase r
  | reattach r => exact (hs.of_unread (t := attachLine (s.call .standby s.env))).finished hphase r
  | restore r cfg => exact ((hs.of_unread (t := s.call .standby s.env)).restored cfg).attachLine.finished hphase r

theorem soundStep_keeps_invariant {s t : State} {τ : Turn} (hs : Invariant s) (h : SoundStep s τ t) : Invariant t := by
  cases h with
  | delivery bytes hfit => exact hs.delivered hfit
  | timer => exact hs.of_unread
  | request bytes ov hphase hfit => exact hs.externalRequested hphase hfit ov
  | modemSwitch cfg => exact hs.modemSet cfg
  | setIntEn b hfree => exact hs.setIntEn (by cases hp : s.seqPhase <;> simp_all [inBracket, SeqPhase.isBracketed]) b
  | clear => exact hs.of_unread
  | reset => exact invariant_resetBlock hs
  | halt τ k u hu => exact hu.takeLinkFault k
  | boot hphase hkept =>
    have hloaded := ((hs.loadCallsign hkept).modemSet (staticTable s.par s.par.bootModem)).attachLine
    exact (hloaded.enterPhase .idle (hs.idle (by rw [hphase]; rfl)) rfl (fun _ => ⟨rfl, rfl⟩) nofun nofun).setIntEn rfl true
  | rest => exact hs
  | accept hphase =>
    exact hs.enterPhase .rxAck (hs.idle (by rw [hphase]; rfl)) rfl (fun _ => hs.booted (by rw [hphase]; rfl)) nofun nofun
  | acknowledge hphase =>
    have hopen : Invariant (openBracket s) := { hs with bracket := fun _ => ⟨rfl, rfl⟩ }
    exact (hopen.enterPhase .rxDecode (hs.idle (by rw [hphase]; rfl)) rfl (fun _ => hs.booted (by rw [hphase]; rfl)) (fun _ => ⟨rfl, rfl⟩)
      nofun).of_unread
  | silence c tr hphase =>
    have hcmd : Invariant { s with rxCmd := c } := { hs with command := by simp [hphase] }
    exact (hcmd.enterRxEnd (by rw [hphase]; rfl) (by rw [hphase]; rfl)).of_unread
  | answer c tr e bytes hphase hnow hfit =>
    have hread : Invariant { s with rxCmd := .holds c, trace := tr, env := e } := (hs.selectCmd c).of_unread (Nat.le_of_eq hnow.symm)
    exact (hread.stored hfit).requested hphase rfl false
  | override cfg cur tr bytes hphase hfit =>
    have hselected : Invariant { s with rxCmd := .holds .retransmitCustom, trace := tr } := (hs.selectCmd .retransmitCustom).of_unread
    exact ((hselected.overridden cfg cur).stored hfit).requested hphase rfl true
  | transmit hphase h => exact fsmStep_keeps_invariant hs hphase h
  | post r hphase => exact hs.posted hphase r
  | postRestore r cfg hphase => exact (hs.restored cfg).posted hphase r
  | finish b hphase =>
    have hidle := hs.enterPhase .idle (hs.idle (by rw [hphase]; rfl)) rfl (fun _ => hs.booted (by rw [hphase]; rfl)) nofun nofun
    exact hidle.setIntEn rfl b

/-- The invariant is kept by every step (60_exceptions.md R322). -/
theorem step_keeps_invariant {s t : State} (hs : Invariant s) (h : step s = .next t) : Invariant t :=
  soundStep_keeps_invariant hs.nextTurn (step_sound hs h)

/-! ### The restore discipline (43_transmit_fsm.md R290, R291) -/

namespace ReceiveReady

variable {s t : State}

/-- The discipline reads eight registers. -/
theorem of_unread (h : ReceiveReady s) (phase : t.seqPhase = s.seqPhase := by rfl) (pending : t.restorePending = s.restorePending := by rfl)
    (fsm : t.txState = s.txState := by rfl) (line : t.rxLineEn = s.rxLineEn := by rfl) (cmd : t.rxCmd = s.rxCmd := by rfl)
    (due : t.txExitNeeded = s.txExitNeeded := by rfl) (outcome : t.txPendingResult = s.txPendingResult := by rfl)
    (result : t.txResult = s.txResult := by rfl) : ReceiveReady t := by
  obtain ⟨settledRestore, attached, preparingAttached, preparingPending, exitDue, disabled, postPending⟩ := h
  constructor <;> simpa only [phase, pending, fsm, line, cmd, due, outcome, result]

/-- Outside a transmission: the line is attached and nothing is to be restored. -/
theorem of_idle (hidle : t.txState = .idle) (line : t.rxLineEn = true) (pending : t.restorePending = false) : ReceiveReady t := by
  constructor <;> simp_all

/-- A transmission requested while the line is attached. -/
theorem of_preparing (hx : t.txState = .preparing) (hphase : t.seqPhase.isTransmitting = true) (line : t.rxLineEn = true)
    (pending : t.restorePending = true → t.seqPhase = .rxTx ∧ t.rxCmd = .holds .retransmitCustom) : ReceiveReady t := by
  have hpost : t.seqPhase ≠ .rxPost := fun hp => by rw [hp] at hphase; cases hphase
  constructor <;> simp_all

/-- A transmission past Preparing with its exit sequence due. -/
theorem of_exitDue (hphase : t.seqPhase.isTransmitting = true) (hbusy : t.txState ≠ .idle) (hx : t.txState ≠ .preparing)
    (due : t.txExitNeeded = true) : ReceiveReady t := by
  have hpost : t.seqPhase ≠ .rxPost := fun hp => by rw [hp] at hphase; cases hphase
  constructor <;> simp_all

theorem of_halted (hphase : t.seqPhase = .halted) (hx : t.txState = .halted) : ReceiveReady t := by
  constructor <;> simp_all [SeqPhase.isTransmitting]

end ReceiveReady

theorem TxState.isExiting_iff (x : TxState) : x.isExiting = true ↔ x = .done ∨ x = .timedOut ∨ x = .rejected := by
  cases x <;> simp [TxState.isExiting]

section RestoreDiscipline

variable {s t : State}

/-- A step of the FSM keeps the discipline: the line is detached only with the exit sequence due, and without it a transmission can only
have been refused. -/
theorem fsmStep_keeps_receiveReady (hr : ReceiveReady s) (hphase : s.seqPhase = .rxTx ∨ s.seqPhase = .extTx) (h : FsmStep s t) :
    ReceiveReady t := by
  have hbusy : s.seqPhase.isTransmitting = true := by rcases hphase with hp | hp <;> rw [hp] <;> rfl
  cases h with
  | refuse hx =>
    exact
      { settledRestore := fun hp => absurd hp (by simp [hbusy])
        attached := nofun, preparingAttached := nofun, preparingPending := nofun, exitDue := nofun
        disabled := fun _ _ => ⟨hr.preparingAttached hx, rfl, hr.preparingPending hx⟩
        postPending := by rcases hphase with hp | hp <;> simp [hp] }
  | keepModem => exact .of_exitDue hbusy nofun nofun rfl
  | switchModem cur => exact .of_exitDue hbusy nofun nofun rfl
  | start buf hx => exact .of_exitDue hbusy (by simp [hx, callStart]) (by simp [hx, callStart]) (hr.exitDue (.inl hx))
  | startError buf e hx => exact .of_exitDue hbusy nofun nofun (hr.exitDue (.inl hx))
  | complete hx => exact .of_exitDue hbusy nofun nofun (hr.exitDue (.inl hx))
  | timeOut last hx =>
    rw [pollHeartbeat_eq]
    exact .of_exitDue hbusy nofun nofun (hr.exitDue (.inl hx))
  | wait last t0 timeout hx =>
    rw [pollHeartbeat_eq]
    exact hr.of_unread
  | leave r hx hr' hdue =>
    have hrejected : s.txState = .rejected := by
      have hundue {p : Prop} (h : p → s.txExitNeeded = true) : ¬p := fun hp => Bool.false_ne_true (hdue.symm.trans (h hp))
      rcases (TxState.isExiting_iff _).mp hx with hx | hx | hx
      · exact absurd (.inr (.inl hx)) (hundue hr.exitDue)
      · exact absurd (.inr (.inr hx)) (hundue hr.exitDue)
      · exact hx
    obtain ⟨hline, hdisabled, hpending⟩ := hr.disabled hrejected hdue
    exact
      { settledRestore := fun _ hpost => Bool.eq_false_iff.mpr fun h => hpost (congrArg phaseAfterTransmit (hpending h).1)
        attached := fun _ _ => hline
        preparingAttached := nofun, preparingPending := nofun, exitDue := by simp [finished], disabled := nofun
        postPending := fun hp h => ⟨(hpending h).2, hr'.symm.trans hdisabled⟩ }
  | reattach r hx hpending => exact .of_idle rfl rfl hpending
  | restore r cfg hx => exact .of_idle rfl rfl rfl

theorem soundStep_keeps_receiveReady {τ : Turn} (hs : Invariant s) (hr : ReceiveReady s) (h : SoundStep s τ t) : ReceiveReady t := by
  have hrest {p : SeqPhase} (hphase : s.seqPhase = p) (hp : p.isTransmitting = false) (hb : p.isBooted = true) (hpost : p ≠ .rxPost) :
      s.txState = .idle ∧ s.rxLineEn = true ∧ s.restorePending = false := by
    subst hphase
    exact ⟨hs.idle hp, hr.attached hb (hs.idle hp), hr.settledRestore hp hpost⟩
  cases h with
  | delivery bytes =>
    rw [delivered, receiveReady_eq]
    exact hr.of_unread
  | timer => exact hr.of_unread
  | request bytes ov hphase =>
    obtain ⟨-, hline, hpending⟩ := hrest hphase rfl rfl nofun
    exact .of_preparing rfl rfl hline fun h => absurd (hpending.symm.trans h) nofun
  | modemSwitch cfg => exact hr.of_unread
  | setIntEn b => exact hr.of_unread
  | clear => exact hr.of_unread
  | reset => exact { receiveReady_reset with }
  | halt τ k u => exact .of_halted rfl rfl
  | boot hphase =>
    exact .of_idle (hs.idle (by rw [hphase]; rfl)) rfl (hr.settledRestore (by rw [hphase]; rfl) (by simp [hphase]))
  | rest => exact hr
  | accept hphase =>
    obtain ⟨hidle, hline, hpending⟩ := hrest hphase rfl rfl nofun
    exact .of_idle hidle hline hpending
  | acknowledge hphase =>
    obtain ⟨hidle, hline, hpending⟩ := hrest hphase rfl rfl nofun
    exact .of_idle hidle hline hpending
  | silence c tr hphase =>
    obtain ⟨hidle, hline, hpending⟩ := hrest hphase rfl rfl nofun
    exact .of_idle hidle hline hpending
  | answer c tr e bytes hphase =>
    obtain ⟨-, hline, hpending⟩ := hrest hphase rfl rfl nofun
    exact .of_preparing rfl rfl hline fun h => absurd (hpending.symm.trans h) nofun
  | override cfg cur tr bytes hphase =>
    obtain ⟨-, hline, -⟩ := hrest hphase rfl rfl nofun
    exact .of_preparing rfl rfl hline fun _ => ⟨rfl, rfl⟩
  | transmit hphase h => exact fsmStep_keeps_receiveReady hr hphase h
  | post r hphase hkeep =>
    have hidle := hs.idle (by rw [hphase]; rfl)
    have hpending : s.restorePending = false := Bool.eq_false_iff.mpr fun h =>
      hkeep (and_assoc.mp ⟨hr.postPending hphase h, h⟩)
    rw [posted, logResult_eq]
    exact .of_idle hidle (hr.attached (by rw [hphase]; rfl) hidle) hpending
  | postRestore r cfg hphase =>
    have hidle := hs.idle (by rw [hphase]; rfl)
    rw [posted, logResult_eq]
    exact .of_idle hidle (hr.attached (by rw [hphase]; rfl) hidle) rfl
  | finish b hphase =>
    obtain ⟨hidle, hline, hpending⟩ := hrest hphase rfl rfl nofun
    exact .of_idle hidle hline hpending

end RestoreDiscipline

/-- Settles O57: from a state of the invariant the step is one of `SoundStep`, each of which keeps the discipline. -/
theorem restoreDisciplineIsKept : Obligations.RestoreDisciplineIsKept := by
  unfold Obligations.RestoreDisciplineIsKept
  intro s t hs hr h
  have hr0 : ReceiveReady (nextTurn s).2 := by
    rw [nextTurn_eq]
    exact hr.of_unread
  exact soundStep_keeps_receiveReady hs.nextTurn hr0 (step_sound hs h)

/-! ### The edges of the transmit FSM (43_transmit_fsm.md R261) -/

theorem TxEdge.refl (x : TxState) : TxEdge x x := by cases x <;> simp [TxEdge]

theorem TxEdge.to_halted {x : TxState} (h : x ≠ .sending) : TxEdge x .halted := by cases x <;> simp_all [TxEdge]

theorem TxEdge.exit {x : TxState} (h : x.isExiting = true) : TxEdge x .idle := by
  rcases (TxState.isExiting_iff x).mp h with rfl | rfl | rfl <;> exact .inr (.inl rfl)

theorem FsmStep.edge {s t : State} (h : FsmStep s t) : TxEdge s.txState t.txState := by
  cases h with
  | refuse hx => rw [hx]; exact .inr (.inl rfl)
  | keepModem hx | switchModem _ hx => rw [hx]; exact .inr (.inr (.inl rfl))
  | start buf => exact .refl _
  | startError buf e hx => rw [hx]; exact .inr (.inl rfl)
  | complete hx => rw [hx]; exact .inr (.inr (.inl rfl))
  | timeOut last hx => rw [hx]; exact .inr (.inr (.inr rfl))
  | wait => rw [pollHeartbeat_eq]; exact .refl _
  | leave _ hx | reattach _ hx | restore _ _ hx => exact .exit hx

theorem SoundStep.edge {s t : State} {τ : Turn} (hs : Invariant s) (h : SoundStep s τ t) (hreset : τ ≠ .port .reset) :
    TxEdge s.txState t.txState := by
  have hidle {p : SeqPhase} (hphase : s.seqPhase = p) (hp : p.isTransmitting = false) : s.txState = .idle := hs.idle (hphase ▸ hp)
  cases h with
  | delivery => rw [delivered, receiveReady_eq]; exact .refl _
  | timer | modemSwitch | setIntEn | clear | boot | rest | accept | acknowledge | silence | finish => exact .refl _
  | request _ _ hphase | answer _ _ _ _ hphase | override _ _ _ _ hphase => rw [hidle hphase rfl]; exact .inr (.inl rfl)
  | reset => exact absurd rfl hreset
  | halt _ _ _ _ _ hx => exact .to_halted hx
  | transmit _ h => exact h.edge
  | post | postRestore => rw [posted, logResult_eq]; exact .refl _

/-- Settles O43: each step of `SoundStep` follows an edge, the fatal entry from any state but Sending. -/
theorem transmitStateFollowsItsEdges : Obligations.TransmitStateFollowsItsEdges := by
  unfold Obligations.TransmitStateFollowsItsEdges
  intro s t hs h
  refine or_iff_not_imp_left.mpr fun hreset => ?_
  have hedge := (step_sound hs h).edge hs.nextTurn hreset
  rwa [nextTurn_eq] at hedge

end Sys2Proof.Machine

namespace Sys2Proof.Machine

/-! ## The steps of the transmit FSM, one by one (43_transmit_fsm.md R262 to R292) -/

/-- Settles O34: an accepted request is `externalRequested`, whose bytes read back and leave the ones above them. -/
theorem txRequestStartsTransmission : Obligations.TxRequestStartsTransmission := by
  unfold Obligations.TxRequestStartsTransmission
  intro s s0 bytes ov hturn hfault hphase hidle hfit
  refine ⟨externalRequested bytes ov s0, ?_, readTransmit_stored bytes s0, rfl, rfl, fun a ha => ?_⟩
  · have hroom : ¬ Config.frameMax < bytes.length := Nat.not_lt.mpr hfit
    rw [show step s = txRequest bytes ov s0 from step_of_portTurn hturn, txRequest, hfault]
    simp only [hphase, hidle, storeTransmit_eq, if_neg hroom, true_and, if_true, if_pos (Nat.not_lt.mp hroom)]
    rfl
  · exact Memory.byte_write_above _ _ _ _ (by rwa [Nat.zero_add])

theorem TxTurn.txState_eq {s s0 : State} {x : TxState} (h : TxTurn s x s0) : s0.txState = x := h.2.2

theorem step_of_txTurn {s s0 : State} {x : TxState} (h : TxTurn s x s0) : step s = (transmitStep s0).outcome := by
  obtain ⟨hturn, hphase, -⟩ := h
  rw [step_of_seqTurn hturn, phaseStep]
  rcases hphase with hp | hp <;> rw [hp]

theorem step_prepare {s s0 : State} (h : TxTurn s .preparing s0) : step s = (prepareStep s0).outcome := by
  rw [step_of_txTurn h, transmitStep, h.txState_eq]

theorem step_send {s s0 : State} (h : TxTurn s .sending s0) : step s = (if s0.txStarted then pollStep s0 else startStep s0).outcome := by
  rw [step_of_txTurn h, transmitStep, h.txState_eq]

theorem step_exit {s s0 : State} {x : TxState} (h : TxTurn s x s0) (hx : x.isExiting = true) : step s = (exitStep s0).outcome := by
  rw [step_of_txTurn h, transmitStep, h.txState_eq]
  rcases (TxState.isExiting_iff x).mp hx with rfl | rfl | rfl <;> rfl

/-! ### Preparing (43_transmit_fsm.md R265 to R268) -/

theorem callEnable_of_enable {s : State} {b : Bool} (h : s.env.enable = b) :
    callEnable s = s.call (.isTransmissionEnabled b) s.env.popEnable := by
  rw [callEnable, h]

theorem prepareStep_disabled {s : State} (h : s.env.enable = false) :
    prepareStep s = .run (refuseDisabled (s.call (.isTransmissionEnabled false) s.env.popEnable)) := by
  rw [prepareStep, callEnable_of_enable h, h]
  rfl

/-- The state in which Preparing, enabled, comes to the modem (43_transmit_fsm.md R266). -/
def suspended (s : State) : State := suspendReception (s.call (.isTransmissionEnabled true) s.env.popEnable)

theorem prepareStep_enabled {s : State} (h : s.env.enable = true) :
    prepareStep s = (switchForTransmit (suspended s)).andThen fun s1 => .run (enterSending s1) := by
  rw [prepareStep, callEnable_of_enable h, h]
  rfl

theorem switchForTransmit_override {s : State} (h : s.txOverride = true) : switchForTransmit s = .run s := if_pos h

theorem switchForTransmit_default {s : State} {cur : ModemConfig} (h : s.txOverride = false) (hcur : s.curCfg = .holds cur) :
    switchForTransmit s = setModem s.par.loraDefault { s with restoreCfg := .holds cur, restorePending := true } := by
  rw [switchForTransmit, h, hcur]
  rfl

theorem timeoutOf_eq (toa : Nat) : timeoutOf toa = 3 * toa / 2 := by rw [timeoutOf, Config.timeoutNum, Config.timeoutDen, Nat.mul_comm]

/-- Settles O35: the answer of storage is recorded and the refusal written, nothing else. -/
theorem preparingRefusesWhenDisabled : Obligations.PreparingRefusesWhenDisabled := by
  unfold Obligations.PreparingRefusesWhenDisabled
  intro s s0 hturn henable
  rw [step_prepare hturn, prepareStep_disabled henable]
  rfl

/-- Settles O36: Preparing switches by one `setModem` between the detached line and the time on air. -/
theorem preparingSwitchesModem : Obligations.PreparingSwitchesModem := by
  unfold Obligations.PreparingSwitchesModem
  intro s s0 cur hturn henable hoverride hcur
  obtain ⟨hok, herr⟩ :=
    setModemFollowsTheDriver s0.par.loraDefault { suspended s0 with restoreCfg := .holds cur, restorePending := true }
  rw [step_prepare hturn, prepareStep_enabled henable, switchForTransmit_default (s := suspended s0) hoverride hcur]
  refine ⟨fun hlink => ?_, fun k hlink => ?_⟩
  · rw [show setModem (suspended s0).par.loraDefault _ = _ from hok hlink, ← timeoutOf_eq]
    simp [enterSending, suspended, suspendReception, State.call, Flow.outcome]
  · rw [show setModem (suspended s0).par.loraDefault _ = _ from herr k hlink]
    simp [suspended, suspendReception, State.call, Flow.outcome]

/-- Settles O37: with an override the switch is skipped. -/
theorem preparingKeepsOverride : Obligations.PreparingKeepsOverride := by
  unfold Obligations.PreparingKeepsOverride
  intro s s0 hturn henable hoverride
  rw [step_prepare hturn, prepareStep_enabled henable, switchForTransmit_override (s := suspended s0) hoverride, ← timeoutOf_eq]
  simp [enterSending, suspended, suspendReception, State.call, Flow.outcome]

/-! ### Sending (43_transmit_fsm.md R269 to R274) -/

theorem startStep_of_read {s : State} {buf : List Byte} (h : readTransmit s = .ok buf) :
    startStep s
      = if s.env.startStatus = s.par.drvOk then .run (markStarted (callStart buf s))
        else .run (settleTransmit (.startError s.env.startStatus) .rejected (callStart buf s)) := by
  rw [startStep, h]
  rfl

/-- Settles O38: the call of the start sub-step is `callStart`, and its answer alone decides what follows. -/
theorem startSubStep : Obligations.StartSubStep := by
  unfold Obligations.StartSubStep
  intro s s0 buf hturn hstarted hread
  have hstart : step s = (startStep s0).outcome := by rw [step_send hturn, hstarted]; rfl
  rw [hstart, startStep_of_read hread]
  refine ⟨fun hfailed => ?_, fun hok => ?_⟩
  · rw [if_neg hfailed]
    rfl
  · rw [if_pos hok]
    rfl

/-- Settles O39: a poll that finds TX_DONE low is a read of NOW, its heartbeat and the comparison with the timeout. -/
theorem pollSubStep : Obligations.PollSubStep := by
  unfold Obligations.PollSubStep
  intro s s0 hturn hstarted
  have hpoll : step s = (pollStep s0).outcome := by rw [step_send hturn, hstarted]; rfl
  rw [hpoll]
  refine ⟨fun hdone => ?_, fun last t0 timeout now hlow hlast ht0 htimeout hnow => ?_⟩
  · rw [pollStep, hdone]
    rfl
  · subst hnow
    by_cases hlate : t0 + timeout < s0.env.popTxDone.readNow
    · simp [pollStep, hlow, hlast, ht0, htimeout, pollHeartbeat_eq, elapsedAtLeast, elapsedExceeds, hlate, Flow.outcome, settleTransmit]
    · simp [pollStep, hlow, hlast, ht0, htimeout, pollHeartbeat_eq, elapsedAtLeast, elapsedExceeds, hlate, Flow.outcome, hturn.txState_eq]

/-! ### The exit step (43_transmit_fsm.md R290 to R292) -/

section Exit

variable {s : State} {r : TxResult} {cfg : ModemConfig}

theorem exitStep_undue (hr : s.txPendingResult = .holds r) (hdue : s.txExitNeeded = false) : exitStep s = .run (finished r s) := by
  rw [exitStep, exitSequence, hdue, ← finish_of_written hr]
  rfl

theorem exitStep_due (hdue : s.txExitNeeded = true) :
    exitStep s
      = ((if s.restorePending then restoreModem (s.call .standby s.env) else .run (s.call .standby s.env)).andThen
          fun s1 => .run (attachLine s1)).andThen finish := by
  rw [exitStep, exitSequence, hdue]
  rfl

theorem exitStep_attach (hr : s.txPendingResult = .holds r) (hdue : s.txExitNeeded = true) (hpending : s.restorePending = false) :
    exitStep s = .run (finished r (attachLine (s.call .standby s.env))) := by
  rw [exitStep_due hdue, hpending]
  exact finish_of_written hr

theorem exitStep_restore (hr : s.txPendingResult = .holds r) (hdue : s.txExitNeeded = true) (hpending : s.restorePending = true)
    (hcfg : s.restoreCfg = .holds cfg) (hlink : s.env.linkStatus = .ok) :
    exitStep s = .run (finished r (attachLine (restored cfg (s.call .standby s.env)))) := by
  rw [exitStep_due hdue, hpending, if_pos rfl, restoreModem_ok (s := s.call .standby s.env) hcfg hlink]
  exact finish_of_written hr

theorem exitStep_refused {k : LinkErr} (hdue : s.txExitNeeded = true) (hpending : s.restorePending = true)
    (hcfg : s.restoreCfg = .holds cfg) (hlink : s.env.linkStatus = .err k) :
    exitStep s = .ended (takeLinkFault k (callBegin cfg (s.call .standby s.env))) := by
  rw [exitStep_due hdue, hpending, if_pos rfl, restoreModem_err (s := s.call .standby s.env) hcfg hlink]
  rfl

end Exit

/-- Settles O40: one equation of the exit step for each of the four paths. -/
theorem exitStepRestores : Obligations.ExitStepRestores := by
  unfold Obligations.ExitStepRestores
  intro s s0 x r next hx hturn hr hnext
  have hphase : phaseAfterTransmit s0.seqPhase = next := by
    rcases hnext with ⟨hp, rfl⟩ | ⟨hp, rfl⟩ <;> rw [hp] <;> rfl
  rw [step_exit hturn hx, ← hphase]
  refine ⟨fun hdue => ?_, fun hdue hpending => ?_, fun cfg hdue hpending hcfg hlink => ?_, fun cfg k hdue hpending hcfg hlink => ?_⟩
  · rw [exitStep_undue hr hdue]
    rfl
  · rw [exitStep_attach hr hdue hpending]
    simp [Flow.outcome, finished, attachLine, State.call]
  · rw [exitStep_restore hr hdue hpending hcfg hlink]
    simp [Flow.outcome, finished, attachLine, restored, callBegin, State.call, hlink]
  · rw [exitStep_refused hdue hpending hcfg hlink, callBegin_of_linkStatus (s := s0.call .standby s0.env) cfg hlink]
    simp [Flow.outcome, takeLinkFault, State.call]

/-- An exit sequence that ends in Idle has re-attached the line, with nothing to restore or after the restore. -/
theorem exitStep_of_idle {s : State} (hx : s.txState.isExiting = true) (hdue : s.txExitNeeded = true)
    (hidle : (exitStep s).state.txState = .idle) :
    ∃ r u, (exitStep s).state = finished r (attachLine u)
      ∧ ((s.restorePending = false ∧ u = s.call .standby s.env)
        ∨ ∃ cfg, s.restorePending = true ∧ s.restoreCfg = .holds cfg ∧ s.env.linkStatus = .ok
          ∧ u = restored cfg (s.call .standby s.env)) := by
  have hbusy : s.txState ≠ .idle := fun h => by rw [h] at hx; cases hx
  have hfinish {u : State} (h : (finish u).state.txState = .idle) (hu : u.txState = s.txState) :
      ∃ r, (finish u).state = finished r u := by
    rcases finish_cases u with ⟨-, hf⟩ | ⟨r, -, hf⟩ <;> rw [hf] at h ⊢
    · exact absurd (hu.symm.trans h) hbusy
    · exact ⟨r, rfl⟩
  rcases exitStep_cases s with ⟨hundue, h⟩ | ⟨-, hpending, h⟩ | ⟨-, -, -, h⟩ | ⟨cfg, -, hpending, hcfg, ⟨hlink, h⟩ | ⟨k, -, h⟩⟩ <;>
    rw [h] at hidle ⊢
  · exact absurd (hdue.symm.trans hundue) nofun
  · obtain ⟨r, hr⟩ := hfinish hidle rfl
    exact ⟨r, _, hr, .inl ⟨hpending, rfl⟩⟩
  · exact absurd hidle hbusy
  · obtain ⟨r, hr⟩ := hfinish hidle rfl
    exact ⟨r, _, hr, .inr ⟨cfg, hpending, hcfg, hlink, rfl⟩⟩
  · cases hidle

/-- Settles O41: the two ways to Idle of `exitStep_of_idle`, with their calls. -/
theorem exitLeavesReceiveReady : Obligations.ExitLeavesReceiveReady := by
  unfold Obligations.ExitLeavesReceiveReady
  intro s s0 t x hx hturn hdue hstep hidle
  have hstate : (exitStep s0).state = t := (Flow.outcome_eq_next_iff _ _).mp ((step_exit hturn hx).symm.trans hstep)
  have htrace : s.trace = s0.trace := by rw [show s0 = (nextTurn s).2 by rw [hturn.1.1], nextTurn_eq]
  rw [← hstate] at hidle
  obtain ⟨r, u, hfinished, hways⟩ := exitStep_of_idle (by rw [hturn.txState_eq]; exact hx) hdue hidle
  rw [← hstate, hfinished, newEvents, htrace]
  rcases hways with ⟨hpending, rfl⟩ | ⟨cfg, hpending, hcfg, hlink, rfl⟩
  · refine ⟨hpending, rfl, fun _ => ⟨?_, rfl⟩, fun h => absurd (hpending.symm.trans h) nofun⟩
    simp [finished]
  · refine ⟨rfl, rfl, fun h => absurd (hpending.symm.trans h) nofun, fun _ => ⟨cfg, hcfg, rfl, ?_⟩⟩
    simp [finished, restored, callBegin, hlink]

/-! ### A disabled transmission (43_transmit_fsm.md R292) -/

theorem seqTurn_of_unscheduled {s : State} (hschedule : s.env.schedule = []) (hfault : s.fault = []) : SeqTurn s s :=
  ⟨by rw [nextTurn, hschedule], hfault⟩

theorem run_succ {s t : State} (k : Nat) (h : step s = .next t) : Sys2Proof.core.run (k + 1) s = Sys2Proof.core.run k t := by
  simp only [Host.Core.run, show Sys2Proof.core.step s = .next t from h]

/-- Settles O42: Preparing refuses, and the exit step with no exit sequence due follows. -/
theorem disabledTransmissionMakesNoRadioCall : Obligations.DisabledTransmissionMakesNoRadioCall := by
  unfold Obligations.DisabledTransmissionMakesNoRadioCall
  intro s hschedule hfault hphase hx henable
  have hrefuse : step s = .next (refuseDisabled (s.call (.isTransmissionEnabled false) s.env.popEnable)) := by
    rw [step_prepare ⟨seqTurn_of_unscheduled hschedule hfault, hphase, hx⟩, prepareStep_disabled henable]
    rfl
  have hexit {u : State} (hturn : TxTurn u .rejected u) (hr : u.txPendingResult = .holds .txDisabled) (hundue : u.txExitNeeded = false) :
      step u = .next (finished .txDisabled u) := by
    rw [step_exit hturn rfl, exitStep_undue hr hundue]
    rfl
  exact ⟨_, (run_succ 1 hrefuse).trans (run_succ 0 (hexit ⟨seqTurn_of_unscheduled hschedule hfault, hphase, rfl⟩ rfl rfl)),
    rfl, rfl, rfl, rfl, rfl, rfl, rfl⟩

end Sys2Proof.Machine

namespace Sys2Proof.Machine

/-! ## Heartbeats (43_transmit_fsm.md R270 to R272)

The start sub-step and a poll's heartbeat are the only writes of TX_LASTBEAT but for RESET, and no other work issues a heartbeat. -/

/-- The heartbeats of TRACE. -/
def State.beats (s : State) : List Event := s.trace.filter Event.isHeartbeat

/-- Work that issues no heartbeat and keeps TX_LASTBEAT. -/
structure KeepsBeat (s t : State) : Prop where
  last : t.txLastBeat = s.txLastBeat
  beats : t.beats = s.beats

theorem isHeartbeat_call {who : Collaborator} {c : Call} (h : c ≠ .heartbeat) : (Event.call who c).isHeartbeat = false := by
  unfold Event.isHeartbeat
  split
  · next heq => exact absurd (Event.call.inj heq).2 h
  · rfl

namespace KeepsBeat

variable {s t u : State}

/-- Writes of other registers than TX_LASTBEAT, with the events `es`, none of them a heartbeat. -/
theorem of_append (es : List Event) (trace : t.trace = s.trace ++ es) (hes : es.filter Event.isHeartbeat = [] := by rfl)
    (last : t.txLastBeat = s.txLastBeat := by rfl) : KeepsBeat s t :=
  ⟨last, by rw [State.beats, trace, List.filter_append, hes, List.append_nil, State.beats]⟩

theorem of_eq (trace : t.trace = s.trace := by rfl) (last : t.txLastBeat = s.txLastBeat := by rfl) : KeepsBeat s t :=
  .of_append [] (by rw [trace, List.append_nil]) rfl last

theorem trans (hst : KeepsBeat s t) (htu : KeepsBeat t u) : KeepsBeat s u :=
  ⟨htu.last.trans hst.last, htu.beats.trans hst.beats⟩

theorem call {c : Call} {env : Env} (h : KeepsBeat s t) (hc : c ≠ .heartbeat := by nofun) : KeepsBeat s (t.call c env) :=
  h.trans (.of_append _ rfl (by simp [isHeartbeat_call hc]))

theorem takeLinkFault {k : LinkErr} (h : KeepsBeat s t) : KeepsBeat s (takeLinkFault k t) := h.trans (.of_append _ rfl)

theorem restored {cfg : ModemConfig} (h : KeepsBeat s t) : KeepsBeat s (restored cfg t) := h.trans (.of_append _ rfl)

theorem attachLine (h : KeepsBeat s t) : KeepsBeat s (attachLine t) := h.trans (.of_append _ rfl)

theorem logResult (r : TxResult) (h : KeepsBeat s t) : KeepsBeat s (logResult r t) := by
  refine h.trans ?_
  cases r with
  | ok => exact .of_eq
  | txTimeout | txDisabled | startError => exact .of_append _ rfl

/-! ### The transmit FSM, Sending apart -/

theorem prepareStep (s : State) : KeepsBeat s (prepareStep s).state := by
  rcases prepareStep_cases s with ⟨-, h⟩ | ⟨-, -, h⟩ | ⟨-, -, -, h⟩ | ⟨cur, -, -, -, ⟨-, h⟩ | ⟨k, -, h⟩⟩ <;> rw [h]
  · exact .of_append [_] rfl
  · exact ⟨rfl, by simp [State.beats, Event.isHeartbeat]⟩
  · exact ⟨rfl, by simp [State.beats, Event.isHeartbeat]⟩
  · exact ⟨rfl, by simp [State.beats, Event.isHeartbeat]⟩
  · exact ⟨rfl, by simp [State.beats, Event.isHeartbeat]⟩

theorem finish (h : KeepsBeat s t) : KeepsBeat s (finish t).state := by
  rcases finish_cases t with ⟨-, hf⟩ | ⟨r, -, hf⟩ <;> rw [hf]
  · exact h.trans .of_eq
  · exact h.trans .of_eq

theorem exitStep (s : State) : KeepsBeat s (exitStep s).state := by
  have hstandby : KeepsBeat s (s.call .standby s.env) := .of_append _ rfl
  rcases exitStep_cases s with ⟨-, h⟩ | ⟨-, -, h⟩ | ⟨-, -, -, h⟩ | ⟨cfg, -, -, -, ⟨-, h⟩ | ⟨k, -, h⟩⟩ <;> rw [h]
  · exact finish .of_eq
  · exact hstandby.attachLine.finish
  · exact hstandby.trans .of_eq
  · exact hstandby.restored.attachLine.finish
  · exact hstandby.call.takeLinkFault

/-! ### The receive service -/

theorem readFields (n : Nat) : ∀ {k : Nat} {t : State}, KeepsBeat s t → KeepsBeat s (readFields k n t).2 := by
  induction n with
  | zero => exact id
  | succ n ih => exact fun h => ih h.call

theorem logFields (bs : List Byte) : ∀ {k : Nat} {t : State}, KeepsBeat s t → KeepsBeat s (logFields k bs t) := by
  induction bs with
  | nil => exact id
  | cons b bs ih => exact fun h => ih (h.trans (.of_append _ rfl))

theorem answer (r : Byte) (d : List Byte) (ov : Bool) (s : State) :
    KeepsBeat s ((encodeResponse r d s).andThen (requestTransmit ov)).state := by
  obtain ⟨⟨_, _, _, _, _, _, h⟩, -⟩ := concludes_of_answer (s := s) (r := r) (d := d) (ov := ov) rfl
  rw [h]
  exact .of_eq

theorem exec {i : Instr} (h : exec i s = .next t) : KeepsBeat s t := by
  rcases exec_eq i s with ⟨r, d, s1, h', hshape⟩ | ⟨e, h', -⟩ | ⟨-, -, h'⟩ <;> cases h'.symm.trans h
  · refine trans ?_ (answer r d false s1)
    rcases hshape with ⟨-, -, -, rfl⟩ | ⟨-, -, -, rfl⟩ | ⟨-, -, -, rfl⟩ | ⟨-, -, -, rfl⟩ | ⟨f, -, -, rfl⟩
    · exact .of_eq
    · exact .of_eq
    · exact logFields _ (readFields _ (.of_append [_] rfl))
    · exact .of_append _ (List.append_assoc _ _ _)
    · exact .of_eq
  · exact .of_append _ rfl
  · rcases applyCustom_cases i.data (s.selectCmd .retransmitCustom) with ⟨-, h⟩ | ⟨cur, -, ⟨k, -, h⟩ | ⟨-, h⟩⟩ <;> rw [h]
    · exact .of_eq
    · exact ⟨rfl, by simp [State.beats, Event.isHeartbeat]⟩
    · exact trans (.of_append [_] rfl) (answer _ _ true _)

theorem rxDecode (h : rxDecode s = .next t) : KeepsBeat s t := by
  rcases rxDecode_next h with ⟨f, rfl⟩ | ⟨cfg, -, ⟨e, rfl⟩ | ⟨f, rfl⟩ | ⟨i, hexec⟩⟩
  · exact .of_eq
  · exact ⟨rfl, by simp [State.beats, Event.isHeartbeat]⟩
  · exact .of_append [_] rfl
  · exact trans (.of_append [_] rfl) (exec hexec)

theorem rxPost (s : State) : KeepsBeat s (rxPost s).state := by
  rcases rxPost_cases s with ⟨h, -⟩ | ⟨c, r, -, -, ⟨-, h⟩ | ⟨-, -, -, ⟨-, h⟩ | ⟨cfg, -, ⟨-, h⟩ | ⟨k, -, h⟩⟩⟩⟩ <;> rw [h]
  · exact .of_eq
  · exact (logResult r .of_eq).trans .of_eq
  · exact .of_eq
  · exact (logResult r (restored (s := s) .of_eq)).trans .of_eq
  · exact ⟨rfl, by simp [State.beats, Event.isHeartbeat]⟩

theorem rxEnd (s : State) : KeepsBeat s (rxEnd s).state := by
  rcases rxEnd_cases s with ⟨-, h⟩ | ⟨b, -, h⟩ <;> rw [h] <;> exact .of_eq

end KeepsBeat

/-- What a step does to the heartbeats: nothing, the start of a transmission, or one heartbeat of a poll, at its own time and a period after
the one before (43_transmit_fsm.md R270, R272). -/
inductive BeatStep (s t : State) : Prop
  | keeps (h : KeepsBeat s t)
  | starts (hx : s.txState = .sending) (before : s.txStarted = false) (after : t.txStarted = true) (beats : t.beats = s.beats)
  | beat (last : Nat) (hx : s.txState = .sending) (started : s.txStarted = true) (before : s.txLastBeat = .holds last)
    (after : t.txLastBeat = .holds t.env.now) (period : last + s.par.hbPeriod ≤ t.env.now)
    (beats : t.beats = s.beats ++ [.call .watchdog .heartbeat])

namespace BeatStep

variable {s t u : State}

theorem startStep (s : State) (hx : s.txState = .sending) (hstarted : s.txStarted = false) : BeatStep s (startStep s).state := by
  rcases startStep_cases s with ⟨f, -, h⟩ | ⟨buf, -, ⟨-, h⟩ | ⟨-, h⟩⟩ <;> rw [h]
  · exact .keeps .of_eq
  · exact .starts hx hstarted rfl (KeepsBeat.of_append (t := callStart buf s) [_] rfl).beats
  · exact .keeps (.of_append [_] rfl)

/-- The heartbeat of a poll, and work after it that leaves TRACE, TX_LASTBEAT and the time. -/
theorem pollHeartbeat {last : Nat} (hx : s.txState = .sending) (hstarted : s.txStarted = true) (hlast : s.txLastBeat = .holds last)
    (trace : t.trace = (pollHeartbeat s.env.popTxDone.readNow last (polled s)).trace := by rfl)
    (beat : t.txLastBeat = (Machine.pollHeartbeat s.env.popTxDone.readNow last (polled s)).txLastBeat := by rfl)
    (env : t.env = (Machine.pollHeartbeat s.env.popTxDone.readNow last (polled s)).env := by rfl) : BeatStep s t := by
  unfold Machine.pollHeartbeat at trace beat env
  by_cases hperiod : last + s.par.hbPeriod ≤ s.env.popTxDone.readNow
  · have helapsed : elapsedAtLeast s.env.popTxDone.readNow last (polled s).par.hbPeriod = true := decide_eq_true hperiod
    rw [if_pos helapsed] at trace beat env
    have hnow : t.env.now = s.env.popTxDone.readNow := by rw [env]; rfl
    refine .beat last hx hstarted hlast (by rw [beat, hnow]) (by rw [hnow]; exact hperiod) ?_
    rw [State.beats, trace]
    exact List.filter_append s.trace [Event.call .watchdog .heartbeat]
  · have helapsed : ¬ elapsedAtLeast s.env.popTxDone.readNow last (polled s).par.hbPeriod = true := fun h => hperiod (of_decide_eq_true h)
    rw [if_neg helapsed] at trace beat
    exact .keeps (.of_eq trace beat)

theorem pollStep (s : State) (hx : s.txState = .sending) (hstarted : s.txStarted = true) : BeatStep s (pollStep s).state := by
  rcases pollStep_cases s with ⟨-, h⟩ | ⟨-, -, h⟩ | ⟨last, -, hlast, ⟨-, h⟩ | ⟨t0, timeout, -, -, ⟨-, h⟩ | ⟨-, h⟩⟩⟩ <;> rw [h]
  · exact .keeps .of_eq
  · exact .keeps .of_eq
  · exact .pollHeartbeat hx hstarted hlast
  · exact .pollHeartbeat hx hstarted hlast
  · exact .pollHeartbeat hx hstarted hlast

theorem transmitStep (s : State) : BeatStep s (transmitStep s).state := by
  rcases transmitStep_cases s with ⟨-, h⟩ | ⟨hx, hstarted, h⟩ | ⟨hx, hstarted, h⟩ | ⟨-, h⟩ | ⟨-, h⟩ <;> rw [h]
  · exact .keeps (.prepareStep s)
  · exact .startStep s hx hstarted
  · exact .pollStep s hx hstarted
  · exact .keeps (.exitStep s)
  · exact .keeps .of_eq

theorem phaseStep (h : phaseStep s = .next t) : BeatStep s t := by
  rcases phaseStep_next h with ⟨-, h⟩ | ⟨-, rfl⟩ | ⟨-, rfl⟩ | ⟨-, h⟩ | ⟨-, rfl⟩ | ⟨-, rfl⟩ | ⟨-, rfl⟩ | ⟨-, rfl⟩
  · obtain ⟨-, ⟨-, rfl⟩ | ⟨k, -, rfl⟩⟩ := bootStep_next h
    · exact .keeps ⟨rfl, by simp [State.beats, Event.isHeartbeat, booted]⟩
    · exact .keeps ⟨rfl, by simp [State.beats, Event.isHeartbeat]⟩
  · unfold rxPoll
    split <;> exact .keeps .of_eq
  · exact .keeps .of_eq
  · exact .keeps (.rxDecode h)
  · exact .transmitStep s
  · exact .keeps (.rxPost s)
  · exact .keeps (.rxEnd s)
  · exact .keeps .of_eq

end BeatStep

theorem portStep_keepsBeat {s t : State} {e : PortEvent} (h : portStep e s = .next t) (hreset : e ≠ .reset) : KeepsBeat s t := by
  rcases portStep_next h with ⟨bytes, -, -, rfl⟩ | ⟨-, rfl⟩ | ⟨bytes, ov, -, h⟩ | ⟨cfg, -, h⟩ | ⟨b, -, -, rfl⟩ | ⟨-, rfl⟩ | ⟨rfl, -⟩
  · rw [receiveReady_eq]
    exact .of_eq
  · exact .of_eq
  · obtain ⟨-, -, -, ⟨-, rfl⟩ | ⟨-, rfl⟩⟩ := txRequest_next h <;> exact .of_eq
  · obtain ⟨-, -, -, -, ⟨-, rfl⟩ | ⟨k, -, rfl⟩⟩ := modemRequest_next h
    · exact .of_append _ rfl
    · exact ⟨rfl, by simp [State.beats, Event.isHeartbeat]⟩
  · exact .of_eq
  · exact .of_eq
  · exact absurd rfl hreset

/-- Where TRACE has grown, the heartbeats of a step are the ones it has added. -/
theorem heartbeats_newEvents {s t : State} (h : s.trace <+: t.trace) {es : List Event} (hes : t.beats = s.beats ++ es) :
    (newEvents s t).filter Event.isHeartbeat = es := by
  obtain ⟨added, hadded⟩ := h
  rw [newEvents, ← hadded, List.drop_left]
  rw [State.beats, ← hadded, List.filter_append] at hes
  exact List.append_cancel_left hes

theorem heartbeat_mem_iff (es : List Event) :
    Event.call .watchdog .heartbeat ∈ es ↔ Event.call .watchdog .heartbeat ∈ es.filter Event.isHeartbeat := by
  simp [Event.isHeartbeat]

/-- Settles O44: of the steps of `BeatStep` only a poll adds a heartbeat, one and a period after the last. -/
theorem heartbeatsAreAPeriodApart : Obligations.HeartbeatsAreAPeriodApart := by
  unfold Obligations.HeartbeatsAreAPeriodApart
  intro s t h
  rw [heartbeat_mem_iff]
  by_cases hreset : (nextTurn s).1 = .port .reset
  · have hnone : newEvents s t = [] := by
      rw [step_eq, hreset] at h
      cases h
      exact List.drop_nil
    simp [hnone, hreset]
  have hgrows : s.trace <+: t.trace := (step_traced h hreset).trace_grows
  have hturn : (nextTurn s).2.beats = s.beats := by rw [nextTurn_eq]; rfl
  have hkept (hk : KeepsBeat (nextTurn s).2 t) :
      (newEvents s t).filter Event.isHeartbeat = [] ∧ t.txLastBeat = s.txLastBeat :=
    ⟨heartbeats_newEvents hgrows (by rw [hk.beats, hturn, List.append_nil]), by rw [hk.last, nextTurn_eq]⟩
  rcases step_next_cases h with ⟨e, hport, h⟩ | ⟨hseq, -, h⟩
  · obtain ⟨hnone, hlast⟩ := hkept (portStep_keepsBeat h fun he => hreset (by rw [hport, he]))
    simp [hnone, hlast]
  · cases BeatStep.phaseStep h with
    | keeps hk =>
      obtain ⟨hnone, hlast⟩ := hkept hk
      simp [hnone, hlast]
    | starts hx before after beats =>
      have hnone := heartbeats_newEvents hgrows (es := []) (by rw [beats, hturn, List.append_nil])
      rw [nextTurn_eq] at hx before
      rw [hnone]
      exact ⟨Nat.zero_le 1, fun hbeat => absurd hbeat List.not_mem_nil, fun _ => .inr (.inr ⟨hseq, hx, before, after⟩)⟩
    | beat last hx started before after period beats =>
      have hone := heartbeats_newEvents hgrows (by rw [beats, hturn])
      rw [nextTurn_eq] at hx started before period
      rw [hone]
      exact ⟨Nat.le_refl 1, fun _ => ⟨last, _, before, after, rfl, period, hx, started⟩, fun hnone => absurd List.mem_cons_self hnone⟩

end Sys2Proof.Machine

namespace Sys2Proof.Machine

/-! ## Every transmission ends (43_transmit_fsm.md R283)

A transmission goes through four stages, and only a poll may stay in its own; it does not once NOW has passed the deadline. -/

/-! ### A step while a transmission is under way -/

/-- A transmission is under way. -/
def Busy (s : State) : Prop := s.txState ≠ .idle ∧ s.txState ≠ .halted

theorem Invariant.phase_of_busy {s : State} (hs : Invariant s) (hbusy : Busy s) : s.seqPhase = .rxTx ∨ s.seqPhase = .extTx := by
  have htransmitting := hs.fsm.mp hbusy.1
  have hhalted := mt hs.halted.mpr hbusy.2
  cases hp : s.seqPhase <;> simp_all [SeqPhase.isTransmitting]

/-- While a transmission is under way SEQ is enabled. -/
theorem Invariant.seqEnabled_of_busy {s : State} (hs : Invariant s) (hbusy : Busy s) : Agent.enabled s .seq := by
  rw [Agent.enabled, seqEnabled, hs.noFault]
  rcases hs.phase_of_busy hbusy with hp | hp <;> rw [hp] <;> rfl

theorem SoundStep.fsmStep_of_seq {s t : State} (hphase : s.seqPhase = .rxTx ∨ s.seqPhase = .extTx) (h : SoundStep s .seq t) :
    t.txState = .halted ∨ FsmStep s t := by
  cases h with
  | halt => exact .inl rfl
  | transmit _ h => exact .inr h
  | boot hp | accept hp | acknowledge hp | silence _ _ hp | answer _ _ _ _ hp | override _ _ _ _ hp | post _ hp
  | postRestore _ _ hp | finish _ hp => simp [hp] at hphase
  | rest hp => rcases hp with hp | hp <;> simp [hp] at hphase

/-- Two states that agree on what the progress of a transmission rests on. -/
structure SameTransmission (s t : State) : Prop where
  txState : t.txState = s.txState
  started : t.txStarted = s.txStarted
  t0 : t.txT0 = s.txT0
  timeout : t.txTimeout = s.txTimeout

theorem SoundStep.same_of_port {s t : State} {e : PortEvent} (hphase : s.seqPhase = .rxTx ∨ s.seqPhase = .extTx)
    (h : SoundStep s (.port e) t) :
    ¬Busy t ∨ (Agent.seq ∉ (Turn.port e).agents s ∧ SameTransmission s t) := by
  cases h with
  | halt => exact .inl fun hbusy => hbusy.2 rfl
  | reset => exact .inl fun hbusy => hbusy.1 rfl
  | request _ _ hp | modemSwitch _ hp => simp [hp] at hphase
  | delivery =>
    rw [delivered, receiveReady_eq]
    exact .inr ⟨by simp only [Turn.agents]; split <;> simp, rfl, rfl, rfl, rfl⟩
  | timer | setIntEn | clear => exact .inr ⟨by simp [Turn.agents], rfl, rfl, rfl, rfl⟩

/-! ### Stages and the deadline -/

/-- How far a transmission is from its exit step. -/
def stage (s : State) : Nat :=
  match s.txState with
  | .preparing => 3
  | .sending => if s.txStarted then 1 else 2
  | _ => 0

/-- The time past which a poll does not wait (43_transmit_fsm.md R273). -/
def deadline (s : State) : Nat := s.txT0.value + s.txTimeout.value

theorem SameTransmission.stage {s t : State} (h : SameTransmission s t) : stage t = stage s := by
  rw [Machine.stage, h.txState, h.started, Machine.stage]

theorem SameTransmission.deadline {s t : State} (h : SameTransmission s t) : deadline t = deadline s := by
  rw [Machine.deadline, h.t0, h.timeout, Machine.deadline]

theorem FsmStep.progress {s t : State} (h : FsmStep s t) (hbusy : Busy t) :
    stage t < stage s ∨ (SameTransmission s t ∧ s.env.now ≤ deadline s) := by
  cases h with
  | refuse hx | keepModem hx | switchModem _ hx => exact .inl (by simp [stage, hx])
  | start buf hx hstarted | startError buf e hx hstarted => exact .inl (by simp [stage, hx, hstarted, callStart])
  | complete hx hstarted => exact .inl (by simp [stage, hx, hstarted])
  | timeOut last hx hstarted => exact .inl (by simp [stage, hx, hstarted])
  | wait last t0 timeout hx hstarted ht0 htimeout hwait =>
    rw [pollHeartbeat_eq]
    refine .inr ⟨⟨rfl, rfl, rfl, rfl⟩, ?_⟩
    rw [deadline, ht0, htimeout]
    exact s.env.popTxDone.now_le_readNow.trans hwait
  | leave | reattach | restore => exact absurd rfl hbusy.1

/-- A step that leaves a transmission under way brings it to a later stage, or leaves it where it is, as SEQ does before the deadline
only. -/
theorem busy_step {s t : State} (hs : Invariant s) (hbusy : Busy s) (h : step s = .next t) (hbusy' : Busy t) :
    stage t < stage s ∨ (stage t = stage s ∧ deadline t = deadline s ∧ (Agent.seq.moves s → s.env.now ≤ deadline s)) := by
  have hphase : (nextTurn s).2.seqPhase = .rxTx ∨ (nextTurn s).2.seqPhase = .extTx := by
    rw [nextTurn_eq]
    exact hs.phase_of_busy hbusy
  have hturn : SameTransmission s (nextTurn s).2 := by
    rw [nextTurn_eq]
    exact ⟨rfl, rfl, rfl, rfl⟩
  have hnow : (nextTurn s).2.env.now = s.env.now := by rw [nextTurn_eq]
  have hsound := step_sound hs h
  rw [Agent.moves, ← hturn.stage, ← hturn.deadline, ← hnow]
  cases hτ : (nextTurn s).1 with
  | seq =>
    rw [hτ] at hsound
    have hfsm := (hsound.fsmStep_of_seq hphase).resolve_left hbusy'.2
    exact (hfsm.progress hbusy').imp_right fun ⟨hsame, hle⟩ => ⟨hsame.stage, hsame.deadline, fun _ => hle⟩
  | port e =>
    rw [hτ] at hsound
    obtain ⟨hnot, hsame⟩ := (hsound.same_of_port hphase).resolve_left (not_not.mpr hbusy')
    exact .inr ⟨hsame.stage, hsame.deadline, fun hmoves => absurd hmoves hnot⟩

/-! ### Fair runs (00_scope.md R9) -/

theorem SoundStep.now_le {s t : State} {τ : Turn} (h : SoundStep s τ t) : s.env.now ≤ t.env.now := by
  cases h with
  | delivery => rw [delivered, receiveReady_eq]
  | halt _ _ _ _ hnow => exact hnow
  | answer _ _ _ _ _ hnow => exact Nat.le_of_eq hnow.symm
  | transmit _ h =>
    cases h with
    | start buf => exact Nat.le_add_right _ _
    | timeOut | wait =>
      rw [pollHeartbeat_eq]
      exact Nat.le_add_right _ _
    | refuse | keepModem | switchModem | startError | complete | leave | reattach | restore => exact Nat.le_refl _
  | post r => exact Nat.le_of_eq (congrArg Env.now (logResult_env r s)).symm
  | postRestore r cfg => exact Nat.le_of_eq (congrArg Env.now (logResult_env r (restored cfg s))).symm
  | timer | request | modemSwitch | setIntEn | clear | reset | boot | rest | accept | acknowledge | silence | override | finish =>
    exact Nat.le_refl _

theorem step_now_le {s t : State} (hs : Invariant s) (h : step s = .next t) : s.env.now ≤ t.env.now := by
  have hle := (step_sound hs h).now_le
  rwa [nextTurn_eq] at hle

namespace Rescripted

variable {s t : State}

theorem invariant (h : Rescripted s t) (hs : Invariant s) : Invariant t := by
  obtain ⟨heq, hnow⟩ := h
  rw [heq]
  exact hs.of_unread hnow

theorem same (h : Rescripted s t) : SameTransmission s t := by
  rw [h.1]
  exact ⟨rfl, rfl, rfl, rfl⟩

end Rescripted

namespace FairRun

variable {r u : Nat → State}

theorem invariant (h : FairRun r u) (h0 : Invariant (r 0)) (n : Nat) : Invariant (r n) := by
  induction n with
  | zero => exact h0
  | succ n ih => exact step_keeps_invariant ((h.scripted n).invariant ih) (h.steps n)

theorem now_mono (h : FairRun r u) (h0 : Invariant (r 0)) : Monotone fun n => (u n).env.now :=
  monotone_nat_of_le_succ fun n =>
    (step_now_le ((h.scripted n).invariant (h.invariant h0 n)) (h.steps n)).trans (h.scripted (n + 1)).2

theorem busy_scripted (h : FairRun r u) {m : Nat} (hbusy : Busy (r m)) : Busy (u m) := by
  rw [Busy, (h.scripted m).same.txState]
  exact hbusy

/-- While a transmission is under way SEQ moves again and again, at times as late as one likes. -/
theorem seq_moves (h : FairRun r u) (h0 : Invariant (r 0)) {n : Nat} (hbusy : ∀ m, n ≤ m → Busy (r m)) (b : Nat) :
    ∃ m, n ≤ m ∧ Agent.seq.moves (u m) ∧ b ≤ (u m).env.now := by
  obtain ⟨k, hk⟩ := h.timeGrows b
  obtain ⟨m, hm, hmoves⟩ := h.weaklyFair .seq (max n k) fun m hm =>
    ((h.scripted m).invariant (h.invariant h0 m)).seqEnabled_of_busy (h.busy_scripted (hbusy m ((le_max_left n k).trans hm)))
  exact ⟨m, (le_max_left n k).trans hm, hmoves, hk.trans (h.now_mono h0 ((le_max_right n k).trans hm))⟩

theorem progress (h : FairRun r u) (h0 : Invariant (r 0)) {m : Nat} (hbusy : Busy (r m)) (hbusy' : Busy (r (m + 1))) :
    stage (r (m + 1)) < stage (r m)
      ∨ (stage (r (m + 1)) = stage (r m) ∧ deadline (r (m + 1)) = deadline (r m)
        ∧ (Agent.seq.moves (u m) → (u m).env.now ≤ deadline (r m))) := by
  have hscripted := h.scripted m
  rw [← hscripted.same.stage, ← hscripted.same.deadline]
  exact busy_step (hscripted.invariant (h.invariant h0 m)) (h.busy_scripted hbusy) (h.steps m) hbusy'

/-- A transmission under way for ever would come to ever later stages: in a stage it never leaves, SEQ moves after the deadline. -/
theorem not_busy_forever (h : FairRun r u) (h0 : Invariant (r 0)) (n : Nat) : ¬∀ m, n ≤ m → Busy (r m) := by
  intro hbusy
  induction hk : stage (r n) using Nat.strong_induction_on generalizing n with
  | _ k ih =>
  subst hk
  have hleast (m : Nat) (hm : n ≤ m) : ¬stage (r m) < stage (r n) := fun hlt =>
    ih _ hlt m (fun m' hm' => hbusy m' (hm.trans hm')) rfl
  have hstays (m : Nat) (hm : n ≤ m) : stage (r m) = stage (r n) ∧ deadline (r m) = deadline (r n) := by
    induction m, hm using Nat.le_induction with
    | base => exact ⟨rfl, rfl⟩
    | succ m hm hsame =>
      rcases h.progress h0 (hbusy m hm) (hbusy _ (Nat.le_succ_of_le hm)) with hlt | ⟨hstage, hdeadline, -⟩
      · exact absurd (hlt.trans_eq hsame.1) (hleast _ (Nat.le_succ_of_le hm))
      · exact ⟨hstage.trans hsame.1, hdeadline.trans hsame.2⟩
  obtain ⟨m, hm, hmoves, hlate⟩ := h.seq_moves h0 hbusy (deadline (r n) + 1)
  rcases h.progress h0 (hbusy m hm) (hbusy _ (Nat.le_succ_of_le hm)) with hlt | ⟨-, -, hearly⟩
  · exact hleast _ (Nat.le_succ_of_le hm) (hlt.trans_eq (hstays m hm).1)
  · exact absurd (hlate.trans ((hearly hmoves).trans_eq (hstays m hm).2)) (Nat.not_succ_le_self _)

end FairRun

/-! ### The poll loop with nothing else scheduled -/

theorem step_of_unscheduled {s : State} (hs : Invariant s) (hschedule : s.env.schedule = []) (hbusy : Busy s) :
    ∃ t, step s = .next t ∧ (t.txState = .halted ∨ FsmStep s t) := by
  have hphase := hs.phase_of_busy hbusy
  have hstep : step s = .next (transmitStep s).state :=
    step_of_txTurn ⟨seqTurn_of_unscheduled hschedule hs.noFault, hphase, rfl⟩
  exact ⟨_, hstep, (transmitStep_sound hs hphase).fsmStep_of_seq hphase⟩

theorem FsmStep.idle_of_exiting {s t : State} (h : FsmStep s t) (hx : s.txState.isExiting = true) : t.txState = .idle := by
  cases h with
  | leave | reattach | restore => rfl
  | refuse h | keepModem h | switchModem _ h | start _ h | startError _ _ h | complete h | timeOut _ h | wait _ _ _ h =>
    rw [h] at hx
    cases hx

/-- A poll ends the loop, or waits before the deadline. -/
theorem FsmStep.of_poll {s t : State} (h : FsmStep s t) (hx : s.txState = .sending) (hstarted : s.txStarted = true) :
    (t.txState.isExiting = true ∧ t.env.schedule = s.env.schedule)
      ∨ ∃ last, t = pollHeartbeat s.env.popTxDone.readNow last (polled s) ∧ s.env.popTxDone.readNow ≤ deadline s := by
  cases h with
  | complete => exact .inl ⟨rfl, rfl⟩
  | timeOut =>
    rw [pollHeartbeat_eq]
    exact .inl ⟨rfl, rfl⟩
  | wait last t0 timeout _ _ ht0 htimeout hwait =>
    refine .inr ⟨last, rfl, ?_⟩
    rwa [deadline, ht0, htimeout]
  | refuse h | keepModem h | switchModem _ h => cases hx.symm.trans h
  | start _ _ h | startError _ _ _ h => cases hstarted.symm.trans h
  | leave _ h | reattach _ h | restore _ _ h =>
    rw [hx] at h
    cases h

/-- The exit step ends the transmission. -/
theorem run_exit {s : State} (hs : Invariant s) (hschedule : s.env.schedule = []) (hx : s.txState.isExiting = true) :
    ∃ t, Sys2Proof.core.run 1 s = .next t ∧ (t.txState = .idle ∨ t.txState = .halted) := by
  have hbusy : Busy s := by rcases (TxState.isExiting_iff _).mp hx with h | h | h <;> simp [Busy, h]
  obtain ⟨t, hstep, hhalted | hfsm⟩ := step_of_unscheduled hs hschedule hbusy
  · exact ⟨t, run_succ 0 hstep, .inr hhalted⟩
  · exact ⟨t, run_succ 0 hstep, .inl (hfsm.idle_of_exiting hx)⟩

/-- A poll loop whose time steps carry NOW past the deadline ends one step after at most as many polls as there are time steps. -/
theorem run_polls (steps : List Nat) : ∀ {s : State}, Invariant s → s.env.schedule = [] → s.txState = .sending → s.txStarted = true →
    s.env.timeSteps = steps → steps ≠ [] → deadline s < s.env.now + steps.sum →
    ∃ k t, k ≤ steps.length + 1 ∧ Sys2Proof.core.run k s = .next t ∧ (t.txState = .idle ∨ t.txState = .halted) := by
  induction steps with
  | nil => exact fun _ _ _ _ _ hsome => absurd rfl hsome
  | cons d ds ih =>
    intro s hs hschedule hx hstarted hsteps _ hlate
    rw [List.length_cons]
    obtain ⟨t, hstep, hhalted | hfsm⟩ := step_of_unscheduled hs hschedule (by simp [Busy, hx])
    · exact ⟨1, t, by omega, run_succ 0 hstep, .inr hhalted⟩
    have ht := step_keeps_invariant hs hstep
    rcases hfsm.of_poll hx hstarted with ⟨hexiting, hschedule'⟩ | ⟨last, rfl, hearly⟩
    · obtain ⟨v, hrun, hend⟩ := run_exit ht (hschedule'.trans hschedule) hexiting
      exact ⟨2, v, by omega, (run_succ 1 hstep).trans hrun, hend⟩
    · have hnow : s.env.popTxDone.readNow = s.env.now + d := by rw [Env.readNow, Env.popTxDone_timeSteps, hsteps]; rfl
      rw [hnow] at hearly
      rw [List.sum_cons] at hlate
      have hmore : ds ≠ [] := by
        rintro rfl
        rw [List.sum_nil] at hlate
        omega
      rw [pollHeartbeat_eq] at ht hstep
      have hlate' : deadline s < s.env.popTxDone.readNow + ds.sum := by omega
      obtain ⟨k, v, hk, hrun, hend⟩ := ih ht hschedule hx hstarted (congrArg List.tail hsteps) hmore hlate'
      exact ⟨k + 1, v, by omega, (run_succ k hstep).trans hrun, hend⟩

/-- Settles O45: a fair run does not stay in a transmission for ever, and a poll loop is run to its end by `run_polls`. -/
theorem pollLoopTerminates : Obligations.PollLoopTerminates := by
  unfold Obligations.PollLoopTerminates
  refine ⟨fun r u hfair h0 n => ?_, fun s timeout hs hschedule hx hstarted htimeout hlate => ?_⟩
  · obtain ⟨m, hm, hended⟩ := not_forall₂.mp (hfair.not_busy_forever h0 n)
    exact ⟨m, hm, by rwa [Busy, not_and_or, not_not, not_not] at hended⟩
  · obtain ⟨⟨t0, ht0, hpast⟩, -⟩ := hs.started hx hstarted
    have hdeadline : deadline s = t0 + timeout := by rw [deadline, ht0, htimeout]; rfl
    refine run_polls _ hs hschedule hx hstarted rfl ?_ (by omega)
    rintro hnone
    rw [hnone] at hlate
    exact Nat.not_lt_zero _ hlate

end Sys2Proof.Machine

namespace Sys2Proof.Machine

/-! ## The model faults and the invariant (60_exceptions.md R322) -/

/-- Settles O56: from a state of the invariant the step is one of `SoundStep`, each of which keeps it. -/
theorem noModelFaultIsReached : Obligations.NoModelFaultIsReached := by
  unfold Obligations.NoModelFaultIsReached
  exact fun _ _ => step_keeps_invariant

/-! ## The interrupt handlers (60_exceptions.md R330, R331) -/

/-- Settles O46: the delivery is written whole, and the receive-ready event after it changes DATA_RX alone. -/
theorem deliveryIsGated : Obligations.DeliveryIsGated := by
  unfold Obligations.DeliveryIsGated
  intro s s0 bytes hturn hfit
  refine ⟨delivered bytes s0, ?_, readReceived_delivered bytes s0, ?_, ?_⟩
  · rw [step_of_portTurn hturn, portStep_rxDeliver hfit]
  · rw [delivered, receiveReady_dataRx]
  · rw [delivered, receiveReady_eq]

/-- Settles O47: the timer event is `isrTmr`, at either level of INT_EN. -/
theorem timerIsGatedByIntEn : Obligations.TimerIsGatedByIntEn := by
  unfold Obligations.TimerIsGatedByIntEn
  intro s s0 hturn
  rw [show step s = .next (isrTmr s0) from step_of_portTurn hturn, isrTmr]
  refine ⟨fun henabled => ?_, fun hmasked => ?_⟩
  · rw [show (s0.switchModem || s0.intEn) = true by rw [henabled, Bool.or_true]]
  · rw [show (s0.switchModem || s0.intEn) = s0.switchModem by rw [hmasked, Bool.or_false]]

/-! ## The fatal fault of an override (60_exceptions.md R340; 41_commands.md R195) -/

theorem applyCustom_of_err {s : State} (d : List Byte) {cur : ModemConfig} {k : LinkErr} (hcur : s.curCfg = .holds cur)
    (hlink : s.env.linkStatus = .err k) :
    applyCustom d s
      = .ended (takeLinkFault k (callBegin (cfgFromCustom s.par d) { s with restoreCfg := .holds cur, restorePending := true })) := by
  rcases applyCustom_cases d s with ⟨hunwritten, -⟩ | ⟨cur', hcur', ⟨k', hfailed, happly⟩ | ⟨hok, -⟩⟩
  · rw [hcur] at hunwritten
    cases hunwritten
  · obtain rfl := Reg.holds.inj (hcur.symm.trans hcur')
    obtain rfl := LinkStatus.err.inj (hlink.symm.trans hfailed)
    exact happly
  · cases hlink.symm.trans hok

/-- Settles O19: the bookkeeping of the override comes before its refused `begin` call, and the fatal entry ends the command. -/
theorem customLinkFaultHalts : Obligations.CustomLinkFaultHalts := by
  unfold Obligations.CustomLinkFaultHalts
  intro s d cur k hcur haccepted hlink
  rw [exec_retransmitCustom_accepted haccepted, applyCustom_of_err (s := s.selectCmd .retransmitCustom) d hcur hlink,
    callBegin_of_linkStatus (s := { s.selectCmd .retransmitCustom with restoreCfg := .holds cur, restorePending := true }) _ hlink]
  simp [Flow.outcome, takeLinkFault, State.call]

/-! ## Halted (60_exceptions.md R341) -/

/-- In Halted a move of ENV other than RESET touches neither the sequencer, nor the FSM, nor CUR_CFG. -/
theorem portStep_of_halted {s t : State} {e : PortEvent} (hphase : s.seqPhase = .halted) (h : portStep e s = .next t)
    (hreset : e ≠ .reset) : t.seqPhase = .halted ∧ t.txState = s.txState ∧ t.curCfg = s.curCfg := by
  have hnotIdle : s.seqPhase ≠ .idle := by rw [hphase]; nofun
  rcases portStep_next h with ⟨bytes, -, -, rfl⟩ | ⟨-, rfl⟩ | ⟨bytes, ov, -, h⟩ | ⟨cfg, -, h⟩ | ⟨b, -, -, rfl⟩ | ⟨-, rfl⟩ | ⟨rfl, -⟩
  · rw [receiveReady_eq]
    exact ⟨hphase, rfl, rfl⟩
  · exact ⟨hphase, rfl, rfl⟩
  · obtain ⟨-, hidle, -⟩ := txRequest_next h
    exact absurd hidle hnotIdle
  · obtain ⟨-, hidle, -⟩ := modemRequest_next h
    exact absurd hidle hnotIdle
  · exact ⟨hphase, rfl, rfl⟩
  · exact ⟨hphase, rfl, rfl⟩
  · exact absurd rfl hreset

theorem phaseStep_of_halted {s : State} (hphase : s.seqPhase = .halted) : phaseStep s = .next s := by
  rw [phaseStep, hphase]

/-- Settles O53: SEQ's step in Halted is the identity, and ENV's moves other than RESET leave the block halted. -/
theorem haltedUntilReset : Obligations.HaltedUntilReset := by
  unfold Obligations.HaltedUntilReset
  intro s hphase
  have hphase0 : (nextTurn s).2.seqPhase = .halted := by rw [nextTurn_eq]; exact hphase
  refine ⟨fun s0 hturn => ?_, fun t h => or_iff_not_imp_left.mpr fun hreset => ?_⟩
  · have hs0 : s0.seqPhase = .halted := by rw [hturn.1] at hphase0; exact hphase0
    rw [step_of_seqTurn hturn, phaseStep_of_halted hs0]
  · have hkept : t.seqPhase = .halted ∧ t.txState = (nextTurn s).2.txState ∧ t.curCfg = (nextTurn s).2.curCfg := by
      rcases step_next_cases h with ⟨e, hport, h⟩ | ⟨-, -, h⟩
      · exact portStep_of_halted hphase0 h fun he => hreset (by rw [hport, he])
      · cases (phaseStep_of_halted hphase0).symm.trans h
        exact ⟨hphase0, rfl, rfl⟩
    rwa [nextTurn_eq] at hkept

/-! ## INT_EN, FAULT and the entry into Halted (10_state.md R34, R45; 60_exceptions.md R322, R332, R340)

A step of SEQ is work that is `Calm` or the `FatalEntry`, but for its writes of INT_EN in Boot, RxAck and RxEnd. `GuardedStep` adds ENV's
moves, and the three statements are read off its cases. -/

/-- Work that keeps INT_EN, removes no model fault and does not enter Halted. -/
structure Calm (s t : State) : Prop where
  intEn : t.intEn = s.intEn
  faults : s.fault <+: t.fault
  running : t.seqPhase = .halted → s.seqPhase = .halted

/-- The fatal entry (60_exceptions.md R340) from a state `u` that the step has reached, in which the driver refuses the `begin` call: up to `u`
the step has extended TRACE, taken answers, and written the identifier, RX_CMD, the restore registers, RXLINE_EN and TX_EXIT_NEEDED at most. -/
inductive FatalEntry (s : State) : State → Prop
  | take (u : State) (cfg : ModemConfig) (k : LinkErr) (refused : u.env.linkStatus = .err k) (trace : s.trace <+: u.trace)
    (frame : u = { s with
      env := u.env, trace := u.trace, idLen := u.idLen, idBuf := u.idBuf, rxCmd := u.rxCmd, restoreCfg := u.restoreCfg
      restorePending := u.restorePending, rxLineEn := u.rxLineEn, txExitNeeded := u.txExitNeeded } := by rfl) :
    FatalEntry s (takeLinkFault k (callBegin cfg u))

/-- What the fatal entry shows (60_exceptions.md R340). -/
theorem FatalEntry.shows {s t : State} (h : FatalEntry s t) :
    t.intEn = s.intEn ∧ t.fault = s.fault ∧ t.txState = .halted ∧ t.curCfg = s.curCfg ∧ t.dataRx = s.dataRx
      ∧ t.switchModem = s.switchModem
      ∧ ∃ k items, [Event.call .radio (.begin items (.err k)), .log (.linkFault k), .call .watchdog .restart] <:+ newEvents s t := by
  cases h with
  | take u cfg k refused trace frame =>
    obtain ⟨es, hes⟩ := trace
    rw [callBegin_of_linkStatus cfg refused]
    refine ⟨(congrArg State.intEn frame :), (congrArg State.fault frame :), rfl, (congrArg State.curCfg frame :),
      (congrArg State.dataRx frame :), (congrArg State.switchModem frame :), k, applyItems u.par cfg, es, ?_⟩
    simp [newEvents, ← hes]

theorem phaseAfterTransmit_eq_halted {p : SeqPhase} (h : phaseAfterTransmit p = .halted) : p = .halted := by
  cases p <;> cases h
  rfl

namespace Calm

variable {s t u : State}

/-- Writes of other registers than INT_EN, FAULT and SEQ_PHASE. -/
theorem of_eq (intEn : t.intEn = s.intEn := by rfl) (faults : t.fault = s.fault := by rfl)
    (phase : t.seqPhase = s.seqPhase := by rfl) : Calm s t :=
  ⟨intEn, faults ▸ List.prefix_rfl, fun h => phase ▸ h⟩

theorem trans (hst : Calm s t) (htu : Calm t u) : Calm s u :=
  ⟨htu.intEn.trans hst.intEn, hst.faults.trans htu.faults, fun h => hst.running (htu.running h)⟩

/-- Work that ends in a phase other than Halted. -/
theorem enter (hphase : t.seqPhase ≠ .halted) (intEn : t.intEn = s.intEn := by rfl) (faults : t.fault = s.fault := by rfl) : Calm s t :=
  ⟨intEn, faults ▸ List.prefix_rfl, fun h => absurd h hphase⟩

theorem raise {f : Fault} (h : Calm s t) : Calm s (t.raise f) := by
  refine h.trans ⟨rfl, ?_, id⟩
  rw [State.raise_fault]
  split
  · exact List.prefix_rfl
  · exact List.prefix_append _ _

theorem of_prepares (h : Prepares s t) : Calm s t := by
  obtain ⟨_, _, _, rfl⟩ := h.writes
  exact .of_eq

theorem answer (r : Byte) (d : List Byte) (ov : Bool) (s : State) :
    Calm s ((encodeResponse r d s).andThen (requestTransmit ov)).state := by
  rcases encodeResponse_cases r d s with ⟨id, -, -, -, h⟩ | ⟨f, h⟩ <;> rw [h]
  · rw [Flow.andThen_run, requestTransmit_eq]
    split
    · exact .enter nofun
    · exact raise .of_eq
  · exact raise .of_eq

theorem finish (h : Calm s t) : Calm s (finish t).state := by
  refine h.trans ?_
  rcases finish_cases t with ⟨-, hf⟩ | ⟨r, -, hf⟩ <;> rw [hf]
  · exact raise .of_eq
  · exact ⟨rfl, List.prefix_rfl, phaseAfterTransmit_eq_halted⟩

theorem startStep (s : State) : Calm s (startStep s).state := by
  rcases startStep_cases s with ⟨f, -, h⟩ | ⟨buf, -, ⟨-, h⟩ | ⟨-, h⟩⟩ <;> rw [h]
  · exact raise .of_eq
  · exact .of_eq
  · exact .of_eq

theorem pollHeartbeat (now last : Nat) (s : State) : Calm s (pollHeartbeat now last s) := by
  rw [pollHeartbeat_eq]
  exact .of_eq

theorem pollStep (s : State) : Calm s (pollStep s).state := by
  have hpolled {last : Nat} : Calm s (Machine.pollHeartbeat s.env.popTxDone.readNow last (polled s)) :=
    trans (t := polled s) .of_eq (.pollHeartbeat _ _ _)
  rcases pollStep_cases s with ⟨-, h⟩ | ⟨-, -, h⟩ | ⟨last, -, -, ⟨-, h⟩ | ⟨t0, timeout, -, -, ⟨-, h⟩ | ⟨-, h⟩⟩⟩ <;> rw [h]
  · exact .of_eq
  · exact raise .of_eq
  · exact hpolled.raise
  · exact hpolled.trans .of_eq
  · exact hpolled

theorem rxPoll (s : State) : Calm s (rxPoll s) := by
  unfold Machine.rxPoll
  split
  · exact .enter nofun
  · exact .of_eq

end Calm

/-- Work of SEQ that writes no INT_EN is calm, or ends in the fatal entry. -/
def CalmOrFatal (s t : State) : Prop := Calm s t ∨ FatalEntry s t

namespace CalmOrFatal

variable {s t u : State}

theorem prepareStep (s : State) : CalmOrFatal s (prepareStep s).state := by
  rcases prepareStep_cases s with ⟨-, h⟩ | ⟨-, -, h⟩ | ⟨-, -, -, h⟩ | ⟨cur, -, -, -, ⟨-, h⟩ | ⟨k, hlink, h⟩⟩ <;> rw [h]
  · exact .inl .of_eq
  · exact .inl .of_eq
  · exact .inl (.raise .of_eq)
  · exact .inl .of_eq
  · exact .inr (.take _ _ k hlink (Quiet.refl s).call.suspendReception.traced.trace_grows)

theorem exitStep (s : State) : CalmOrFatal s (exitStep s).state := by
  rcases exitStep_cases s with ⟨-, h⟩ | ⟨-, -, h⟩ | ⟨-, -, -, h⟩ | ⟨cfg, -, -, -, ⟨-, h⟩ | ⟨k, hlink, h⟩⟩ <;> rw [h]
  · exact .inl (.finish .of_eq)
  · exact .inl (.finish .of_eq)
  · exact .inl (.raise .of_eq)
  · exact .inl (.finish .of_eq)
  · exact .inr (.take _ _ k hlink (List.prefix_append _ _))

theorem transmitStep (s : State) : CalmOrFatal s (transmitStep s).state := by
  rcases transmitStep_cases s with ⟨-, h⟩ | ⟨-, -, h⟩ | ⟨-, -, h⟩ | ⟨-, h⟩ | ⟨-, h⟩ <;> rw [h]
  · exact .prepareStep s
  · exact .inl (.startStep s)
  · exact .inl (.pollStep s)
  · exact .exitStep s
  · exact .inl .of_eq

theorem applyCustom (d : List Byte) (s : State) : CalmOrFatal s (applyCustom d s).state := by
  rcases applyCustom_cases d s with ⟨-, h⟩ | ⟨cur, -, ⟨k, hlink, h⟩ | ⟨-, h⟩⟩ <;> rw [h]
  · exact .inl (.raise .of_eq)
  · exact .inr (.take _ _ k hlink List.prefix_rfl)
  · exact .inl (.trans .of_eq (.answer _ _ true _))

/-- The work of a command up to its end may come first. -/
theorem after (hst : Prepares s t) (htu : CalmOrFatal t u) : CalmOrFatal s u := by
  refine htu.imp (Calm.of_prepares hst).trans fun hfatal => ?_
  obtain ⟨es, hes, -⟩ := hst.traced
  obtain ⟨_, _, _, rfl⟩ := hst.writes
  cases hfatal with
  | take v cfg k refused trace frame => exact .take v cfg k refused (.trans ⟨es, hes.symm⟩ trace) frame

theorem exec {i : Instr} (h : exec i s = .next t) : CalmOrFatal s t := by
  have hselect {c : Command} : Prepares s (s.selectCmd c) := (Prepares.refl s).selectCmd
  rcases exec_eq i s with ⟨r, d, s1, h', hshape⟩ | ⟨e, h', -⟩ | ⟨-, -, h'⟩ <;> cases h'.symm.trans h
  · refine after ?_ (.inl (.answer r d false s1))
    rcases hshape with ⟨-, -, -, rfl⟩ | ⟨-, -, -, rfl⟩ | ⟨-, -, -, rfl⟩ | ⟨-, -, -, rfl⟩ | ⟨f, -, -, rfl⟩
    · exact hselect
    · exact hselect
    · exact .telemetryLogged s
    · exact .packetInfoRead s
    · exact hselect
  · exact .inl (.enter nofun)
  · exact after hselect (.applyCustom _ _)

theorem rxDecode (h : rxDecode s = .next t) : CalmOrFatal s t := by
  rcases rxDecode_next h with ⟨f, rfl⟩ | ⟨cfg, -, ⟨e, rfl⟩ | ⟨f, rfl⟩ | ⟨i, hexec⟩⟩
  · exact .inl (.raise .of_eq)
  · exact .inl (.enter nofun)
  · exact .inl (.raise .of_eq)
  · exact after (Prepares.refl s).call (.exec hexec)

theorem rxPost (s : State) : CalmOrFatal s (rxPost s).state := by
  have hposted (r : TxResult) (u : State) (hu : Calm s u) : Calm s (posted r u) :=
    hu.trans (.enter nofun (logResult_intEn r u) (logResult_fault r u))
  rcases rxPost_cases s with ⟨h, -⟩ | ⟨c, r, -, -, ⟨-, h⟩ | ⟨-, -, -, ⟨-, h⟩ | ⟨cfg, -, ⟨-, h⟩ | ⟨k, hlink, h⟩⟩⟩⟩ <;> rw [h]
  · exact .inl (.raise .of_eq)
  · exact .inl (hposted r s .of_eq)
  · exact .inl (.raise .of_eq)
  · exact .inl (hposted r (restored cfg s) .of_eq)
  · exact .inr (.take _ _ k hlink List.prefix_rfl)

end CalmOrFatal

/-- What a step can do to INT_EN, FAULT and Halted, by its turn. -/
inductive GuardedStep (s : State) : Turn → State → Prop
  | keeps (τ : Turn) {t : State} : CalmOrFatal s t → GuardedStep s τ t
  /-- SEQ writes INT_EN (70_reset_and_hazards.md R385; 40_codec.md R161). -/
  | service (b : Bool) {t : State} : s.seqPhase = .boot ∨ s.seqPhase = .rxAck ∨ s.seqPhase = .rxEnd → Calm { s with intEn := b } t →
    GuardedStep s .seq t
  /-- ENV writes INT_EN (10_state.md R64). -/
  | port (b : Bool) : s.seqPhase = .idle ∨ s.seqPhase = .extTx → GuardedStep s (.port (.setIntEn b)) { s with intEn := b }
  | reset : GuardedStep s (.port .reset) (resetBlock s)

theorem inBracket_eq_false_iff (s : State) : inBracket s = false ↔ s.seqPhase = .idle ∨ s.seqPhase = .extTx := by
  simp only [inBracket, Bool.and_eq_false_iff, decide_eq_false_iff_not, not_not]

theorem portStep_guarded {e : PortEvent} {s t : State} (h : portStep e s = .next t) : GuardedStep s (.port e) t := by
  rcases portStep_next h with ⟨bytes, rfl, -, rfl⟩ | ⟨rfl, rfl⟩ | ⟨bytes, ov, rfl, h⟩ | ⟨cfg, rfl, h⟩ | ⟨b, rfl, hb, rfl⟩ | ⟨rfl, rfl⟩
      | ⟨rfl, rfl⟩
  · rw [receiveReady_eq]
    exact .keeps _ (.inl .of_eq)
  · exact .keeps _ (.inl .of_eq)
  · obtain ⟨-, -, -, ⟨-, rfl⟩ | ⟨-, rfl⟩⟩ := txRequest_next h
    · exact .keeps _ (.inl (.enter nofun))
    · exact .keeps _ (.inl (.raise .of_eq))
  · obtain ⟨-, -, -, -, ⟨-, rfl⟩ | ⟨k, hlink, rfl⟩⟩ := modemRequest_next h
    · exact .keeps _ (.inl .of_eq)
    · exact .keeps _ (.inr (.take _ _ k hlink List.prefix_rfl))
  · exact .port b ((inBracket_eq_false_iff s).mp hb)
  · exact .keeps _ (.inl .of_eq)
  · exact .reset

theorem phaseStep_guarded {s t : State} (h : phaseStep s = .next t) : GuardedStep s .seq t := by
  rcases phaseStep_next h with ⟨hp, h⟩ | ⟨-, rfl⟩ | ⟨hp, rfl⟩ | ⟨-, h⟩ | ⟨-, rfl⟩ | ⟨-, rfl⟩ | ⟨hp, rfl⟩ | ⟨-, rfl⟩
  · obtain ⟨-, ⟨-, rfl⟩ | ⟨k, hlink, rfl⟩⟩ := bootStep_next h
    · exact .service true (.inl hp) (.enter nofun)
    · exact .keeps _ (.inr (.take _ _ k hlink (List.prefix_append _ _)))
  · exact .keeps _ (.inl (.rxPoll s))
  · exact .service false (.inr (.inl hp)) (.enter nofun)
  · exact .keeps _ (.rxDecode h)
  · exact .keeps _ (.transmitStep s)
  · exact .keeps _ (.rxPost s)
  · rcases rxEnd_cases s with ⟨-, h⟩ | ⟨b, -, h⟩ <;> rw [h]
    · exact .keeps _ (.inl (.raise .of_eq))
    · exact .service b (.inr (.inr hp)) (.enter nofun)
  · exact .keeps _ (.inl .of_eq)

theorem step_guarded {s t : State} (h : step s = .next t) : GuardedStep (nextTurn s).2 (nextTurn s).1 t := by
  rcases step_next_cases h with ⟨e, hturn, h⟩ | ⟨hturn, -, h⟩ <;> rw [hturn]
  · exact portStep_guarded h
  · exact phaseStep_guarded h

theorem CalmOrFatal.intEn {s t : State} (h : CalmOrFatal s t) : t.intEn = s.intEn := by
  rcases h with hcalm | hfatal
  · exact hcalm.intEn
  · exact hfatal.shows.1

theorem CalmOrFatal.faults {s t : State} (h : CalmOrFatal s t) : s.fault <+: t.fault := by
  rcases h with hcalm | hfatal
  · exact hcalm.faults
  · obtain ⟨-, hfault, -⟩ := hfatal.shows
    exact hfault ▸ List.prefix_rfl

/-- Settles O49: of the steps of `GuardedStep` SEQ's in three phases, ENV's write and RESET change INT_EN, and the bracket decides ENV's. -/
theorem intEnIsWrittenInNormalContext : Obligations.IntEnIsWrittenInNormalContext := by
  unfold Obligations.IntEnIsWrittenInNormalContext
  refine ⟨fun s t h hne => ?_, fun s s0 b hturn => ⟨fun hopen => ?_, fun hidle hextTx => ?_⟩⟩
  · have hguarded := step_guarded h
    rw [nextTurn_eq] at hguarded
    generalize (nextTurn s).1 = τ at hguarded ⊢
    cases hguarded with
    | keeps _ hkept => exact absurd hkept.intEn hne
    | service b hphase => exact .inr (.inr ⟨rfl, hphase⟩)
    | port b hphase => exact .inr (.inl ⟨⟨b, rfl⟩, hphase⟩)
    | reset => exact .inl rfl
  · rw [step_of_portTurn hturn, portStep, (inBracket_eq_false_iff s0).mpr hopen]
    rfl
  · have hheld : ¬ inBracket s0 = false := mt (inBracket_eq_false_iff s0).mp (not_or.mpr ⟨hidle, hextTx⟩)
    rw [step_of_portTurn hturn, portStep, Bool.eq_true_of_not_eq_false hheld]
    rfl

/-- Settles O52: of the steps of `GuardedStep` the fatal entry alone enters Halted. -/
theorem haltedOnlyByLinkFault : Obligations.HaltedOnlyByLinkFault := by
  unfold Obligations.HaltedOnlyByLinkFault
  intro s t h hrunning hhalted
  have hguarded := step_guarded h
  rw [nextTurn_eq] at hguarded
  generalize (nextTurn s).1 = τ at hguarded
  cases hguarded with
  | keeps _ hkept =>
    rcases hkept with hcalm | hfatal
    · exact absurd (hcalm.running hhalted) hrunning
    · obtain ⟨hintEn, -, hx, hcur, hdata, hswitch, hevents⟩ := hfatal.shows
      exact ⟨hx, hcur, hintEn, hdata, hswitch, hevents⟩
  | service b hphase hcalm => exact absurd (hcalm.running hhalted) hrunning
  | port b => exact absurd hhalted hrunning
  | reset => cases hhalted

/-- Settles O54: SEQ's turn answers the first fault, and RESET alone among the steps of `GuardedStep` removes one. -/
theorem modelFaultsStopSeq : Obligations.ModelFaultsStopSeq := by
  unfold Obligations.ModelFaultsStopSeq
  refine ⟨fun s s0 f fs hturn hfault => ?_, fun s t h hreset => ?_⟩
  · rw [step_eq, hturn]
    exact seqStep_fault hfault
  · have hguarded := step_guarded h
    rw [nextTurn_eq] at hguarded
    generalize (nextTurn s).1 = τ at hguarded hreset
    cases hguarded with
    | keeps _ hkept => exact hkept.faults
    | service b _ hcalm => exact hcalm.faults
    | port b => exact List.prefix_rfl
    | reset => exact absurd rfl hreset

end Sys2Proof.Machine

namespace Sys2Proof.Machine

/-! ## The boot step (70_reset_and_hazards.md R385, R386)

An answer of `getCallsign` within the host duty makes the boot step the link manager's `setModem` on the loaded identifier; the identifier
then reads as its bytes below the length. -/

variable {s : State}

/-- The host duty of 10_state.md R64 is the three bounds on the answer, scripted or free. -/
theorem callsignKept_iff (e : Env) :
    callsignKept e = true ↔ 1 ≤ e.callsign.2 ∧ e.callsign.2 ≤ Config.idMax ∧ e.callsign.2 ≤ e.callsign.1.length := by
  refine ⟨callsign_bounds, fun ⟨hmin, hmax, hlen⟩ => ?_⟩
  unfold callsignKept
  unfold Env.callsign at hmin hmax hlen
  cases hscript : e.callsigns with
  | nil => rfl
  | cons answer rest =>
    rw [hscript] at hmin hmax hlen
    simp only [Bool.and_eq_true, decide_eq_true_eq]
    exact ⟨⟨hmin, hmax⟩, hlen⟩

theorem readId_loadCallsign (hkept : callsignKept s.env = true) :
    readId (loadCallsign s) = .ok (s.env.callsign.1.take s.env.callsign.2) := by
  obtain ⟨-, -, hlen⟩ := callsign_bounds hkept
  refine (readId_ok_iff _ _).mpr ⟨?_, Memory.read_write_same _ [] 0⟩
  rw [loadCallsign_idLen, List.length_take_of_le hlen]

theorem bootStep_ok (hkept : callsignKept s.env = true) (hlink : s.env.popCallsign.linkStatus = .ok) : bootStep s = .next (booted s) := by
  rw [bootStep, if_pos hkept, setModem_ok (s := loadCallsign s) _ hlink]
  rfl

theorem bootStep_err {k : LinkErr} (hkept : callsignKept s.env = true) (hlink : s.env.popCallsign.linkStatus = .err k) :
    bootStep s = .next (takeLinkFault k (callBegin (staticTable s.par s.par.bootModem) (loadCallsign s))) := by
  rw [bootStep, if_pos hkept, setModem_err (s := loadCallsign s) _ hlink]
  rfl

theorem step_boot {s0 : State} (hturn : SeqTurn s s0) (hphase : s0.seqPhase = .boot) : step s = bootStep s0 := by
  rw [step_of_seqTurn hturn, phaseStep, hphase]

/-- Settles O60: a kept answer makes the boot step `booted` or the fatal entry after the identifier is loaded, and neither touches the
identifier registers again. -/
theorem bootLoadsIdentifierAndModem : Obligations.BootLoadsIdentifierAndModem := by
  unfold Obligations.BootLoadsIdentifierAndModem
  intro s s0 b l hturn hphase hcall hmin hmax hlen
  have hkept : callsignKept s0.env = true := (callsignKept_iff _).mpr (by rw [hcall]; exact ⟨hmin, hmax, hlen⟩)
  have hread : readId (loadCallsign s0) = .ok (b.take l) := by rw [readId_loadCallsign hkept, hcall]
  rw [step_boot hturn hphase]
  refine ⟨fun hlink => ?_, fun k hlink => ?_⟩
  · refine ⟨_, bootStep_ok hkept hlink, (readId_congr rfl rfl).trans hread, ?_⟩
    rw [booted, callBegin_of_linkStatus (s := loadCallsign s0) _ hlink]
    simp [attachLine, loadCallsign, State.call, Call.collaborator, hcall]
  · refine ⟨_, bootStep_err hkept hlink, (readId_congr rfl rfl).trans hread, ?_⟩
    rw [callBegin_of_linkStatus (s := loadCallsign s0) _ hlink]
    simp [takeLinkFault, loadCallsign, State.call, Call.collaborator, hcall]

end Sys2Proof.Machine
